-- ==== Sys2Proof/Word.lean ====
section
/-! DEFINITION. Word: the bit-vector types every other file uses (00_scope.md R7, R10, R16). -/

namespace Sys2Proof

/-- A byte: 8 bits (R16). -/
abbrev Byte := BitVec 8

/-- The number of an MMX register, 3 bits (10_state.md R20: eight registers, no prefix extends the number). -/
abbrev MmReg := BitVec 3

/-- The number of an XMM or YMM register, 4 bits (10_state.md R23). -/
abbrev VecReg := BitVec 4

/-- The number of a general register, 4 bits (10_state.md R25; 4 is RSP, 5 is RBP). -/
abbrev GenReg := BitVec 4

end Sys2Proof
end

