-- ==== Sys2Proof/Config.lean ====
section
/-! DEFINITION. Config: what the implementation fixes (00_scope.md R6), and the free value of the program counter
(the other free value, otherType4Check, reads State and stands in Machine/Ops.lean). -/

namespace Sys2Proof.Config

/-- Width in bits of the widest vector register (R6, decision D2: VLMAX = 256). -/
def vlmax : Nat := 256

/-- The longest instruction in bytes (30_encoding.md R104). -/
def maxInstrLen : Nat := 15

/-- FREE VALUE (log 6). The program counter after an instruction that starts at the first argument, has the length of
the second, and whose last byte is the last byte of the address space: 10_state.md R26 states no wrap-around. -/
opaque pcPastTop : BitVec 64 → Nat → BitVec 64

/-- The parameter Type4Check (R6, R205, decision D12; log 4). -/
inductive Type4
  /-- the default tables of 60_exceptions.md R205, to the letter, and R207 for the MMX forms -/
  | table
  /-- the same with the segment faults of 20_memory.md R53: #SS(0) through SS also in real-address and virtual-8086
  mode, where the table of R205 names #GP(0) only (log 13) -/
  | tableR53
  /-- another function, for every form: the free function number `k` -/
  | other (k : Nat)
deriving DecidableEq, Repr

/-- The implementation-defined parameters that the model keeps open. They are fields of the state that no step
writes, so that a claim quantifies over them. -/
structure Params where
  /-- VEX_ALIGN_ENFORCED (20_memory.md R57, D10): a VEX form faults on a memory operand not aligned to its size. -/
  vexAlignEnforced : Bool
  /-- FETCH_HALF (93_implementation_defined.md U1): only the upper 8 bytes of an m128 operand are fetched, and so
  translated; false is the spec's decision D8. -/
  fetchHalf : Bool
  /-- Type4Check (R6, R205); `table` is the spec's default instantiation. -/
  type4 : Type4
deriving DecidableEq, Repr

end Sys2Proof.Config
end

