-- ==== Sys2Proof/Syntax.lean ====
section
/-! DEFINITION. Syntax: the decoded instruction (30_encoding.md R110). One constructor of `Instr` per row of
spec/opcode_table.json. Beside its operands a decoded instruction carries the choices of its encoding that have no
meaning (which prefixes stood in which order, the REX byte, the spelling of the VEX prefix), so that its length (R104) is
a function of it and `encode` gives back the very bytes it was decoded from. -/

namespace Sys2Proof

/-- How the code segment makes the machine read instruction bytes: MODE64 and the default address size (R6, R87, R89,
R90). `m16` and `m32` are code with 16- and 32-bit default address size outside 64-bit mode, `m64` is 64-bit mode. -/
inductive CodeMode
  | m16 | m32 | m64
deriving DecidableEq, Repr

/-- The six segments (20_memory.md R53). -/
inductive Seg
  | es | cs | ss | ds | fs | gs
deriving DecidableEq, Repr

/-- The four bits of a REX prefix 0100WRXB (R92). -/
structure Rex where
  w : Bool
  r : Bool
  x : Bool
  b : Bool
deriving DecidableEq, Repr

/-- The prefixes that may stand before the opcode or the last REX byte (R91, R92). -/
inductive Pfx
  /-- 66H -/
  | opSize
  /-- 67H -/
  | addrSize
  /-- 26H, 2EH, 36H, 3EH, 64H, 65H -/
  | seg (s : Seg)
  /-- F0H -/
  | lock
  /-- F2H -/
  | repne
  /-- F3H -/
  | rep
  /-- 40H to 4FH in 64-bit mode, followed by another prefix and so ignored (R92) -/
  | rex (r : Rex)
deriving DecidableEq, Repr

/-- The encoding choices of an instruction of the legacy shape (R80): the prefixes in the order written, an ignored REX byte
among them, and the REX prefix that counts. -/
structure LegacyEnc where
  pfx : List Pfx
  rex : Option Rex
deriving DecidableEq, Repr

/-- The VEX prefix as written, its inverted bits turned back (R95, R96). `r`, `x`, `b` are the register-number extension
bits, `w` is VEX.W, and `v3` is the fourth bit of the register number in vvvv, which outside 64-bit mode is written and ignored
(R94). -/
inductive VexPrefix
  | two (r v3 : Bool)
  | three (w r x b v3 : Bool)
deriving DecidableEq, Repr

/-- The encoding choices of an instruction of the VEX shape (R80). -/
structure VexEnc where
  pfx : List Pfx
  vex : VexPrefix
deriving DecidableEq, Repr

/-- A displacement with the width it is written in (R87, R89, R103). -/
inductive Disp
  | absent
  | d8 (v : BitVec 8)
  | d16 (v : BitVec 16)
  | d32 (v : BitVec 32)
deriving DecidableEq, Repr

/-- The address size of a memory operand (R87, R89, R90). -/
inductive AddrSize
  | a16 | a32 | a64
deriving DecidableEq, Repr

/-- The forms of an effective address (R87 to R90). -/
inductive AddrForm
  /-- a base register and a displacement: r/m names the register -/
  | base (b : GenReg) (d : Disp)
  /-- SIB with a base: `base + index * 2^scale + displacement`; index 4 means no index (R88) -/
  | sib (b idx : GenReg) (sc : BitVec 2) (d : Disp)
  /-- SIB with base field 101B and mod 00B: no base, a disp32 (R88) -/
  | sibNoBase (idx : GenReg) (sc : BitVec 2) (d : BitVec 32)
  /-- mod 00B, r/m 101B outside 64-bit mode: the displacement alone (R87) -/
  | abs32 (d : BitVec 32)
  /-- mod 00B, r/m 101B in 64-bit mode: the next instruction's address and a displacement (R90) -/
  | ripRel (d : BitVec 32)
  /-- 16-bit addressing: the row of R89 that r/m selects, and a displacement -/
  | regs16 (rm : BitVec 3) (d : Disp)
  /-- 16-bit addressing, mod 00B, r/m 110B: the displacement alone (R89) -/
  | abs16 (d : BitVec 16)
deriving DecidableEq, Repr

/-- A memory operand: the segment it is reached through, the address size, and the form of the effective address. -/
structure MemOp where
  seg : Seg
  asz : AddrSize
  form : AddrForm
deriving DecidableEq, Repr

/-- The ModRM:r/m operand: a register with a `k`-bit number, or memory (R86). -/
inductive RM (k : Nat)
  | reg (r : BitVec k)
  | mem (m : MemOp)
deriving DecidableEq, Repr

/-- The element widths (R110). -/
inductive Elem
  | byte | word | dword | qword
deriving DecidableEq, Repr

/-- Width in bits of an element (R16). -/
def Elem.width : Elem → Nat
  | .byte => 8
  | .word => 16
  | .dword => 32
  | .qword => 64

/-- The four encoding classes (R83, R110). -/
inductive Cls
  | mmx | sse | vex128 | vex256
deriving DecidableEq, Repr

/-- The fifteen forms (00_scope.md R2). `Mm`, `Xmm`, `Ymm` name the register kind. -/
inductive Instr
  /-- PUNPCKHBW mm, mm/m64: 0F 68 /r (R150) -/
  | punpckhbwMm (e : LegacyEnc) (dst : MmReg) (src : RM 3)
  /-- PUNPCKHWD mm, mm/m64: 0F 69 /r (R151) -/
  | punpckhwdMm (e : LegacyEnc) (dst : MmReg) (src : RM 3)
  /-- PUNPCKHDQ mm, mm/m64: 0F 6A /r (R152) -/
  | punpckhdqMm (e : LegacyEnc) (dst : MmReg) (src : RM 3)
  /-- PUNPCKHBW xmm1, xmm2/m128: 66 0F 68 /r (R160) -/
  | punpckhbwXmm (e : LegacyEnc) (dst : VecReg) (src : RM 4)
  /-- PUNPCKHWD xmm1, xmm2/m128: 66 0F 69 /r (R161) -/
  | punpckhwdXmm (e : LegacyEnc) (dst : VecReg) (src : RM 4)
  /-- PUNPCKHDQ xmm1, xmm2/m128: 66 0F 6A /r (R162) -/
  | punpckhdqXmm (e : LegacyEnc) (dst : VecReg) (src : RM 4)
  /-- PUNPCKHQDQ xmm1, xmm2/m128: 66 0F 6D /r (R163) -/
  | punpckhqdqXmm (e : LegacyEnc) (dst : VecReg) (src : RM 4)
  /-- VPUNPCKHBW xmm1, xmm2, xmm3/m128: VEX.NDS.128.66.0F.WIG 68 /r (R170) -/
  | vpunpckhbwXmm (e : VexEnc) (dst src1 : VecReg) (src2 : RM 4)
  /-- VPUNPCKHWD xmm1, xmm2, xmm3/m128: VEX.NDS.128.66.0F.WIG 69 /r (R171) -/
  | vpunpckhwdXmm (e : VexEnc) (dst src1 : VecReg) (src2 : RM 4)
  /-- VPUNPCKHDQ xmm1, xmm2, xmm3/m128: VEX.NDS.128.66.0F.WIG 6A /r (R172) -/
  | vpunpckhdqXmm (e : VexEnc) (dst src1 : VecReg) (src2 : RM 4)
  /-- VPUNPCKHQDQ xmm1, xmm2, xmm3/m128: VEX.NDS.128.66.0F.WIG 6D /r (R173) -/
  | vpunpckhqdqXmm (e : VexEnc) (dst src1 : VecReg) (src2 : RM 4)
  /-- VPUNPCKHBW ymm1, ymm2, ymm3/m256: VEX.NDS.256.66.0F.WIG 68 /r (R180) -/
  | vpunpckhbwYmm (e : VexEnc) (dst src1 : VecReg) (src2 : RM 4)
  /-- VPUNPCKHWD ymm1, ymm2, ymm3/m256: VEX.NDS.256.66.0F.WIG 69 /r (R181) -/
  | vpunpckhwdYmm (e : VexEnc) (dst src1 : VecReg) (src2 : RM 4)
  /-- VPUNPCKHDQ ymm1, ymm2, ymm3/m256: VEX.NDS.256.66.0F.WIG 6A /r (R182) -/
  | vpunpckhdqYmm (e : VexEnc) (dst src1 : VecReg) (src2 : RM 4)
  /-- VPUNPCKHQDQ ymm1, ymm2, ymm3/m256: VEX.NDS.256.66.0F.WIG 6D /r (R183) -/
  | vpunpckhqdqYmm (e : VexEnc) (dst src1 : VecReg) (src2 : RM 4)
deriving DecidableEq, Repr

/-- The encoding class of a form (00_scope.md R2, R83). -/
def Instr.cls : Instr → Cls
  | .punpckhbwMm _ _ _ => .mmx
  | .punpckhwdMm _ _ _ => .mmx
  | .punpckhdqMm _ _ _ => .mmx
  | .punpckhbwXmm _ _ _ => .sse
  | .punpckhwdXmm _ _ _ => .sse
  | .punpckhdqXmm _ _ _ => .sse
  | .punpckhqdqXmm _ _ _ => .sse
  | .vpunpckhbwXmm _ _ _ _ => .vex128
  | .vpunpckhwdXmm _ _ _ _ => .vex128
  | .vpunpckhdqXmm _ _ _ _ => .vex128
  | .vpunpckhqdqXmm _ _ _ _ => .vex128
  | .vpunpckhbwYmm _ _ _ _ => .vex256
  | .vpunpckhwdYmm _ _ _ _ => .vex256
  | .vpunpckhdqYmm _ _ _ _ => .vex256
  | .vpunpckhqdqYmm _ _ _ _ => .vex256

/-- The element of a form (R83). -/
def Instr.elem : Instr → Elem
  | .punpckhbwMm _ _ _ => .byte
  | .punpckhwdMm _ _ _ => .word
  | .punpckhdqMm _ _ _ => .dword
  | .punpckhbwXmm _ _ _ => .byte
  | .punpckhwdXmm _ _ _ => .word
  | .punpckhdqXmm _ _ _ => .dword
  | .punpckhqdqXmm _ _ _ => .qword
  | .vpunpckhbwXmm _ _ _ _ => .byte
  | .vpunpckhwdXmm _ _ _ _ => .word
  | .vpunpckhdqXmm _ _ _ _ => .dword
  | .vpunpckhqdqXmm _ _ _ _ => .qword
  | .vpunpckhbwYmm _ _ _ _ => .byte
  | .vpunpckhwdYmm _ _ _ _ => .word
  | .vpunpckhdqYmm _ _ _ _ => .dword
  | .vpunpckhqdqYmm _ _ _ _ => .qword

/-- The memory operand of an r/m operand, if it is one. -/
def RM.mem? {k : Nat} : RM k → Option MemOp
  | .reg _ => none
  | .mem m => some m

/-- The memory operand of an instruction, if its last operand is one (20_memory.md R50). -/
def Instr.mem? : Instr → Option MemOp
  | .punpckhbwMm _ _ r => r.mem?
  | .punpckhwdMm _ _ r => r.mem?
  | .punpckhdqMm _ _ r => r.mem?
  | .punpckhbwXmm _ _ r => r.mem?
  | .punpckhwdXmm _ _ r => r.mem?
  | .punpckhdqXmm _ _ r => r.mem?
  | .punpckhqdqXmm _ _ r => r.mem?
  | .vpunpckhbwXmm _ _ _ r => r.mem?
  | .vpunpckhwdXmm _ _ _ r => r.mem?
  | .vpunpckhdqXmm _ _ _ r => r.mem?
  | .vpunpckhqdqXmm _ _ _ r => r.mem?
  | .vpunpckhbwYmm _ _ _ r => r.mem?
  | .vpunpckhwdYmm _ _ _ r => r.mem?
  | .vpunpckhdqYmm _ _ _ r => r.mem?
  | .vpunpckhqdqYmm _ _ _ r => r.mem?

end Sys2Proof
end

