-- ==== Sys2Proof/Machine/Addressing.lean ====
section
/-! DEFINITION. Addressing: what the mode, the legacy prefixes and the form of an address say about a memory operand,
shared by well-formedness and decoding (30_encoding.md R87 to R91), and the extension bits of REX and VEX (R92, R99). -/

namespace Sys2Proof

/-- The address size of a memory operand: the code mode's default, switched by a 67 prefix (R87, R89, R90). -/
def addrSizeOf (m : CodeMode) (ps : List Pfx) : AddrSize :=
  match m, ps.contains .addrSize with
  | .m16, false => .a16
  | .m16, true => .a32
  | .m32, false => .a32
  | .m32, true => .a16
  | .m64, false => .a64
  | .m64, true => .a32

/-- Whether a base register makes SS the default segment: number 4 or 5, not 12 or 13 (R87, R90). -/
def stackBase (b : GenReg) : Bool := b == 4#4 || b == 5#4

/-- The default segment of an address form (R87 to R90). -/
def defaultSeg : AddrForm → Seg
  | .base b _ => if stackBase b then .ss else .ds
  | .sib b _ _ _ => if stackBase b then .ss else .ds
  | .sibNoBase _ _ _ => .ds
  | .abs32 _ => .ds
  | .ripRel _ => .ds
  | .regs16 rm d => if rm == 2#3 || rm == 3#3 || (rm == 6#3 && d != .absent) then .ss else .ds
  | .abs16 _ => .ds

/-- The segment override among the prefixes, if there is one (R91). -/
def overrideOf : List Pfx → Option Seg
  | [] => none
  | .seg s :: _ => some s
  | _ :: ps => overrideOf ps

/-- Whether a segment override has an effect in a mode: in 64-bit mode only FS and GS do (R91). -/
def overrideCounts (m : CodeMode) (s : Seg) : Bool := m != .m64 || s == .fs || s == .gs

/-- The segment of a memory operand (20_memory.md R53, 30_encoding.md R91). -/
def segOf (m : CodeMode) (ps : List Pfx) (f : AddrForm) : Seg :=
  match overrideOf ps with
  | none => defaultSeg f
  | some s => if overrideCounts m s then s else defaultSeg f

/-- Two prefixes that may not stand together: the same one, two segment overrides (R91), or two REX bytes (log 21). -/
def Pfx.clashes : Pfx → Pfx → Bool
  | .seg _, .seg _ => true
  | .rex _, .rex _ => true
  | p, q => p == q

/-- Whether some prefix is repeated or two segment overrides stand among the prefixes (R91, R102). -/
def repeated : List Pfx → Bool
  | [] => false
  | p :: ps => ps.any (Pfx.clashes p) || repeated ps

/-- Whether a prefix is an ignored REX byte (R92). -/
def Pfx.isRex : Pfx → Bool
  | .rex _ => true
  | .opSize => false
  | .addrSize => false
  | .seg _ => false
  | .lock => false
  | .repne => false
  | .rep => false

/-- A run of prefixes parted into those that stand before its last REX byte and that byte, if the run ends in one: a REX byte
followed by another prefix is ignored (R92). -/
def splitRex : List Pfx → List Pfx × Option Rex
  | [] => ([], none)
  | [.rex r] => ([], some r)
  | p :: ps => (p :: (splitRex ps).1, (splitRex ps).2)

/-- REX.R, 0 without a REX prefix (R92). -/
def LegacyEnc.r (e : LegacyEnc) : Bool := (e.rex.map Rex.r).getD false

/-- REX.X, 0 without a REX prefix (R92). -/
def LegacyEnc.x (e : LegacyEnc) : Bool := (e.rex.map Rex.x).getD false

/-- REX.B, 0 without a REX prefix (R92). -/
def LegacyEnc.b (e : LegacyEnc) : Bool := (e.rex.map Rex.b).getD false

/-- VEX.R (R95, R96). -/
def VexPrefix.r : VexPrefix → Bool
  | .two r _ => r
  | .three _ r _ _ _ => r

/-- VEX.X, 0 in the two-byte spelling (R95, R96). -/
def VexPrefix.x : VexPrefix → Bool
  | .two _ _ => false
  | .three _ _ x _ _ => x

/-- VEX.B, 0 in the two-byte spelling (R95, R96). -/
def VexPrefix.b : VexPrefix → Bool
  | .two _ _ => false
  | .three _ _ _ b _ => b

/-- The fourth bit of the register number written in vvvv (R94). -/
def VexPrefix.v3 : VexPrefix → Bool
  | .two _ v3 => v3
  | .three _ _ _ _ v3 => v3

/-- A four-bit register number from an extension bit and a three-bit field (R86). -/
def extReg (hi : Bool) (lo : BitVec 3) : BitVec 4 := BitVec.ofBool hi ++ lo

/-- The three-bit field of a register number. -/
def lowReg (r : BitVec 4) : BitVec 3 := r.extractLsb' 0 3

/-- The extension bit of a register number. -/
def highReg (r : BitVec 4) : Bool := r.getLsbD 3

end Sys2Proof
end

