-- ==== Sys2Proof/WellFormed.lean ====
section
/-! DEFINITION. WellFormed: which terms of `Instr` are the decoded record of some encoding in a code mode
(30_encoding.md R86 to R101, R110). Every field that an encoding determines twice must agree with itself. -/

namespace Sys2Proof

/-- The prefixes of a legacy shape: 66 exactly where the form needs it, 67 and one segment override at most, none
repeated, no F0, F2 or F3 (R91, R102, R105). -/
def legacyPfxOk (need66 : Bool) (ps : List Pfx) : Bool :=
  !repeated ps && (ps.contains .opSize == need66) &&
    !ps.contains .lock && !ps.contains .repne && !ps.contains .rep

/-- The prefixes before a VEX prefix: 67 and one segment override at most (R80, R100). -/
def vexPfxOk (ps : List Pfx) : Bool := legacyPfxOk false ps && !ps.any Pfx.isRex

/-- REX bytes stand in 64-bit mode only, there is one at most, and one that counts is the last prefix (R92; log 21). -/
def rexOk (m : CodeMode) (e : LegacyEnc) : Bool :=
  (m == .m64 || (e.rex.isNone && !e.pfx.any Pfx.isRex)) && !(e.rex.isSome && e.pfx.any Pfx.isRex) &&
    (splitRex e.pfx).2.isNone

/-- Outside 64-bit mode R, X and B are 0, and in the two-byte spelling vvvv names a register below 8 (R94, R98). -/
def vexOk (m : CodeMode) (v : VexPrefix) : Bool :=
  m == .m64 || (!v.r && !v.x && !v.b && (match v with | .two _ v3 => !v3 | .three _ _ _ _ _ => true))

/-- The first source of a VEX form is what vvvv names: all four bits in 64-bit mode, the low three outside (R94). -/
def src1Ok (m : CodeMode) (v : VexPrefix) (src1 : VecReg) : Bool :=
  highReg src1 == (m == .m64 && v.v3)

/-- A displacement of 32- or 64-bit addressing: none, 8 or 32 bits (R87, R90). -/
def dispOk32 : Disp → Bool
  | .absent => true
  | .d8 _ => true
  | .d16 _ => false
  | .d32 _ => true

/-- A displacement of 16-bit addressing: none, 8 or 16 bits (R89). -/
def dispOk16 : Disp → Bool
  | .absent => true
  | .d8 _ => true
  | .d16 _ => true
  | .d32 _ => false

/-- An address form that the ModRM and SIB bytes can spell at an address size with extension bits X and B (R87 to R90). -/
def formOk (m : CodeMode) (asz : AddrSize) (x b : Bool) : AddrForm → Bool
  | .base r d => asz != .a16 && dispOk32 d && highReg r == b && lowReg r != 4#3 && !(lowReg r == 5#3 && d == .absent)
  | .sib r i _ d => asz != .a16 && dispOk32 d && highReg r == b && highReg i == x && !(lowReg r == 5#3 && d == .absent)
  | .sibNoBase i _ _ => asz != .a16 && highReg i == x
  | .abs32 _ => asz != .a16 && m != .m64
  | .ripRel _ => asz != .a16 && m == .m64
  | .regs16 rm d => asz == .a16 && dispOk16 d && !(rm == 6#3 && d == .absent)
  | .abs16 _ => asz == .a16

/-- A memory operand whose address size and segment are those the mode and the prefixes give (R87 to R91). -/
def memOk (m : CodeMode) (ps : List Pfx) (x b : Bool) (o : MemOp) : Bool :=
  o.asz == addrSizeOf m ps && o.seg == segOf m ps o.form && formOk m o.asz x b o.form

/-- An r/m operand naming an MMX register or memory: B does not extend an MMX register (R93). -/
def rmOkMm (m : CodeMode) (ps : List Pfx) (x b : Bool) : RM 3 → Bool
  | .reg _ => true
  | .mem o => memOk m ps x b o

/-- An r/m operand naming an XMM or YMM register or memory: B is the register's fourth bit (R92, R99). -/
def rmOkVec (m : CodeMode) (ps : List Pfx) (x b : Bool) : RM 4 → Bool
  | .reg r => highReg r == b
  | .mem o => memOk m ps x b o

/-- Well-formedness of an MMX form (R86, R91, R93). -/
def wfMmx (m : CodeMode) (e : LegacyEnc) (src : RM 3) : Bool :=
  legacyPfxOk false e.pfx && rexOk m e && rmOkMm m e.pfx e.x e.b src

/-- Well-formedness of a legacy SSE form (R86, R91, R92). -/
def wfSse (m : CodeMode) (e : LegacyEnc) (dst : VecReg) (src : RM 4) : Bool :=
  legacyPfxOk true e.pfx && rexOk m e && highReg dst == e.r && rmOkVec m e.pfx e.x e.b src

/-- Well-formedness of a VEX form (R86, R94 to R100). -/
def wfVex (m : CodeMode) (e : VexEnc) (dst src1 : VecReg) (src2 : RM 4) : Bool :=
  vexPfxOk e.pfx && vexOk m e.vex && highReg dst == e.vex.r && src1Ok m e.vex src1 &&
    rmOkVec m e.pfx e.vex.x e.vex.b src2

/-- Well-formedness of an instruction in a code mode. -/
def Instr.wf (m : CodeMode) : Instr → Bool
  | .punpckhbwMm e _ r => wfMmx m e r
  | .punpckhwdMm e _ r => wfMmx m e r
  | .punpckhdqMm e _ r => wfMmx m e r
  | .punpckhbwXmm e d r => wfSse m e d r
  | .punpckhwdXmm e d r => wfSse m e d r
  | .punpckhdqXmm e d r => wfSse m e d r
  | .punpckhqdqXmm e d r => wfSse m e d r
  | .vpunpckhbwXmm e d a r => wfVex m e d a r
  | .vpunpckhwdXmm e d a r => wfVex m e d a r
  | .vpunpckhdqXmm e d a r => wfVex m e d a r
  | .vpunpckhqdqXmm e d a r => wfVex m e d a r
  | .vpunpckhbwYmm e d a r => wfVex m e d a r
  | .vpunpckhwdYmm e d a r => wfVex m e d a r
  | .vpunpckhdqYmm e d a r => wfVex m e d a r
  | .vpunpckhqdqYmm e d a r => wfVex m e d a r

end Sys2Proof
end

