-- ==== Sys2Proof/Decode.lean ====
section
/-! DEFINITION. Decode: the decoder of 30_encoding.md R102, total on every byte sequence, the length of an instruction
(R104), and the encoder written from the same tables (R81, R82, R86 to R99). -/

namespace Sys2Proof

/-- Why bytes do not decode to an instruction. -/
inductive DecodeStop
  /-- the byte sequence ended inside the instruction -/
  | truncated
  /-- a repeated prefix or two segment overrides: refused (R91, R102) -/
  | repeatedPrefix
  /-- an encoding that is not one of the fifteen forms: refused (R105) -/
  | notOnPage
  /-- 0F 6D without a 66 prefix: refused (R105) -/
  | needs66
  /-- a three-byte VEX prefix with B' = 0 outside 64-bit mode: refused (R98) -/
  | vexBOutside64
  /-- #UD raised by the decoder (R100, R102, R206) -/
  | invalidOpcode
  /-- #GP(0) for an instruction of more than 15 bytes (R102, R104) -/
  | tooLong
deriving DecidableEq, Repr

/-! ### Bit fields of the encoding bytes -/

/-- ModRM.mod (R86); also SIB.scale (R88). -/
def fieldHi (b : Byte) : BitVec 2 := b.extractLsb' 6 2

/-- ModRM.reg (R86); also SIB.index (R88). -/
def fieldMid (b : Byte) : BitVec 3 := b.extractLsb' 3 3

/-- ModRM.r/m (R86); also SIB.base (R88). -/
def fieldLo (b : Byte) : BitVec 3 := b.extractLsb' 0 3

/-- A ModRM or SIB byte from its three fields (R86, R88). -/
def joinFields (hi : BitVec 2) (mid lo : BitVec 3) : Byte := hi ++ mid ++ lo

/-- Whether a byte is 40H to 4FH (R92). -/
def isRexByte (b : Byte) : Bool := b.extractLsb' 4 4 == 4#4

/-- The four bits of a REX byte (R92). -/
def rexOfByte (b : Byte) : Rex := ⟨b.getLsbD 3, b.getLsbD 2, b.getLsbD 1, b.getLsbD 0⟩

/-- The byte of a REX prefix (R92). -/
def Rex.toByte (x : Rex) : Byte :=
  4#4 ++ BitVec.ofBool x.w ++ BitVec.ofBool x.r ++ BitVec.ofBool x.x ++ BitVec.ofBool x.b

/-- The legacy prefix a byte is, if it is one (R91). -/
def pfxOfByte (b : Byte) : Option Pfx :=
  if b = 0x66#8 then some .opSize
  else if b = 0x67#8 then some .addrSize
  else if b = 0x26#8 then some (.seg .es)
  else if b = 0x2E#8 then some (.seg .cs)
  else if b = 0x36#8 then some (.seg .ss)
  else if b = 0x3E#8 then some (.seg .ds)
  else if b = 0x64#8 then some (.seg .fs)
  else if b = 0x65#8 then some (.seg .gs)
  else if b = 0xF0#8 then some .lock
  else if b = 0xF2#8 then some .repne
  else if b = 0xF3#8 then some .rep
  else none

/-- The prefix a byte is in a code mode, a REX byte in 64-bit mode among them (R91, R92). -/
def prefixOf (m : CodeMode) (b : Byte) : Option Pfx :=
  if m = .m64 ∧ isRexByte b = true then some (.rex (rexOfByte b)) else pfxOfByte b

/-- The byte of a prefix (R91, R92). -/
def Pfx.toByte : Pfx → Byte
  | .opSize => 0x66#8
  | .addrSize => 0x67#8
  | .seg .es => 0x26#8
  | .seg .cs => 0x2E#8
  | .seg .ss => 0x36#8
  | .seg .ds => 0x3E#8
  | .seg .fs => 0x64#8
  | .seg .gs => 0x65#8
  | .lock => 0xF0#8
  | .repne => 0xF2#8
  | .rep => 0xF3#8
  | .rex r => r.toByte

/-- The element that the last opcode byte selects (R83). -/
def elemOfOp (op : Byte) : Option Elem :=
  if op = 0x68#8 then some .byte
  else if op = 0x69#8 then some .word
  else if op = 0x6A#8 then some .dword
  else if op = 0x6D#8 then some .qword
  else none

/-- The last opcode byte of an element (R83). -/
def Elem.toOp : Elem → Byte
  | .byte => 0x68#8
  | .word => 0x69#8
  | .dword => 0x6A#8
  | .qword => 0x6D#8

/-! ### Decoding -/

/-- The run of prefixes at the head of a byte sequence, and what follows it (R91, R92, R102). -/
def takePrefixes (m : CodeMode) : List Byte → List Pfx × List Byte
  | [] => ([], [])
  | b :: bs =>
    match prefixOf m b with
    | some p => (p :: (takePrefixes m bs).1, (takePrefixes m bs).2)
    | none => ([], b :: bs)

/-- One byte of displacement. -/
def take8 : List Byte → Except DecodeStop (BitVec 8 × List Byte)
  | b :: bs => .ok (b, bs)
  | [] => .error .truncated

/-- Two bytes of displacement, little-endian (R89). -/
def take16 : List Byte → Except DecodeStop (BitVec 16 × List Byte)
  | b0 :: b1 :: bs => .ok (b1 ++ b0, bs)
  | _ => .error .truncated

/-- Four bytes of displacement, little-endian (R87). -/
def take32 : List Byte → Except DecodeStop (BitVec 32 × List Byte)
  | b0 :: b1 :: b2 :: b3 :: bs => .ok (b3 ++ b2 ++ b1 ++ b0, bs)
  | _ => .error .truncated

/-- The displacement that mod 00B, 01B or 10B announces with 32- or 64-bit addressing (R87, R90). -/
def takeDisp32 (mod : BitVec 2) (bs : List Byte) : Except DecodeStop (Disp × List Byte) :=
  if mod = 0#2 then .ok (.absent, bs)
  else if mod = 1#2 then (take8 bs).map (fun r => (.d8 r.1, r.2))
  else (take32 bs).map (fun r => (.d32 r.1, r.2))

/-- The displacement that mod 00B, 01B or 10B announces with 16-bit addressing (R89). -/
def takeDisp16 (mod : BitVec 2) (bs : List Byte) : Except DecodeStop (Disp × List Byte) :=
  if mod = 0#2 then .ok (.absent, bs)
  else if mod = 1#2 then (take8 bs).map (fun r => (.d8 r.1, r.2))
  else (take16 bs).map (fun r => (.d16 r.1, r.2))

/-- The address form of a memory operand with 16-bit addressing (R89). -/
def takeForm16 (mod : BitVec 2) (rm : BitVec 3) (bs : List Byte) : Except DecodeStop (AddrForm × List Byte) :=
  if mod = 0#2 ∧ rm = 6#3 then (take16 bs).map (fun r => (.abs16 r.1, r.2))
  else (takeDisp16 mod bs).map (fun r => (.regs16 rm r.1, r.2))

/-- The address form that a SIB byte spells (R88, R90). -/
def takeSib (x b : Bool) (mod : BitVec 2) : List Byte → Except DecodeStop (AddrForm × List Byte)
  | [] => .error .truncated
  | sib :: bs =>
    if mod = 0#2 ∧ fieldLo sib = 5#3 then
      (take32 bs).map (fun r => (.sibNoBase (extReg x (fieldMid sib)) (fieldHi sib) r.1, r.2))
    else
      (takeDisp32 mod bs).map (fun r => (.sib (extReg b (fieldLo sib)) (extReg x (fieldMid sib)) (fieldHi sib) r.1, r.2))

/-- The address form of a memory operand with 32- or 64-bit addressing (R87, R90). -/
def takeForm32 (m : CodeMode) (x b : Bool) (mod : BitVec 2) (rm : BitVec 3) (bs : List Byte) :
    Except DecodeStop (AddrForm × List Byte) :=
  if rm = 4#3 then takeSib x b mod bs
  else if mod = 0#2 ∧ rm = 5#3 then
    (take32 bs).map (fun r => (if m = .m64 then .ripRel r.1 else .abs32 r.1, r.2))
  else (takeDisp32 mod bs).map (fun r => (.base (extReg b rm) r.1, r.2))

/-- The memory operand that mod (not 11B), r/m and the bytes after ModRM spell (R86 to R91). -/
def takeMem (m : CodeMode) (ps : List Pfx) (x b : Bool) (mod : BitVec 2) (rm : BitVec 3) (bs : List Byte) :
    Except DecodeStop (MemOp × List Byte) :=
  (if addrSizeOf m ps = .a16 then takeForm16 mod rm bs else takeForm32 m x b mod rm bs).map
    (fun r => (⟨segOf m ps r.1, addrSizeOf m ps, r.1⟩, r.2))

/-- The r/m operand: the register `mkReg` makes of the r/m field where mod is 11B, else memory (R84 to R86). -/
def takeRM {k : Nat} (m : CodeMode) (ps : List Pfx) (x b : Bool) (mkReg : BitVec 3 → BitVec k) (modrm : Byte)
    (bs : List Byte) : Except DecodeStop (RM k × List Byte) :=
  if fieldHi modrm = 3#2 then .ok (.reg (mkReg (fieldLo modrm)), bs)
  else (takeMem m ps x b (fieldHi modrm) (fieldLo modrm) bs).map (fun r => (.mem r.1, r.2))

/-- The MMX form of an element; there is none for quadwords (00_scope.md R2, R105). -/
def mmxInstr (e : LegacyEnc) (dst : MmReg) (src : RM 3) : Elem → Option Instr
  | .byte => some (.punpckhbwMm e dst src)
  | .word => some (.punpckhwdMm e dst src)
  | .dword => some (.punpckhdqMm e dst src)
  | .qword => none

/-- The legacy SSE form of an element (R81). -/
def sseInstr (e : LegacyEnc) (dst : VecReg) (src : RM 4) : Elem → Instr
  | .byte => .punpckhbwXmm e dst src
  | .word => .punpckhwdXmm e dst src
  | .dword => .punpckhdqXmm e dst src
  | .qword => .punpckhqdqXmm e dst src

/-- The VEX form of VEX.L and an element (R82, R97, R101). -/
def vexInstr (e : VexEnc) (dst src1 : VecReg) (src2 : RM 4) : Bool → Elem → Instr
  | false, .byte => .vpunpckhbwXmm e dst src1 src2
  | false, .word => .vpunpckhwdXmm e dst src1 src2
  | false, .dword => .vpunpckhdqXmm e dst src1 src2
  | false, .qword => .vpunpckhqdqXmm e dst src1 src2
  | true, .byte => .vpunpckhbwYmm e dst src1 src2
  | true, .word => .vpunpckhwdYmm e dst src1 src2
  | true, .dword => .vpunpckhdqYmm e dst src1 src2
  | true, .qword => .vpunpckhqdqYmm e dst src1 src2

/-- ModRM and what follows it for an MMX form (R84, R93). -/
def takeMmxOperands (m : CodeMode) (e : LegacyEnc) (el : Elem) : List Byte → Except DecodeStop (Instr × List Byte)
  | [] => .error .truncated
  | modrm :: bs =>
    match takeRM m e.pfx e.x e.b (fun r => r) modrm bs with
    | .error d => .error d
    | .ok (src, rest) =>
      match mmxInstr e (fieldMid modrm) src el with
      | some i => .ok (i, rest)
      | none => .error .needs66

/-- ModRM and what follows it for a legacy SSE form (R84, R92). -/
def takeSseOperands (m : CodeMode) (e : LegacyEnc) (el : Elem) : List Byte → Except DecodeStop (Instr × List Byte)
  | [] => .error .truncated
  | modrm :: bs =>
    (takeRM m e.pfx e.x e.b (extReg e.b) modrm bs).map
      (fun r => (sseInstr e (extReg e.r (fieldMid modrm)) r.1 el, r.2))

/-- The legacy shape after the byte 0F, in the order of the checks of R102. -/
def decodeLegacy (m : CodeMode) (e : LegacyEnc) : List Byte → Except DecodeStop (Instr × List Byte)
  | [] => .error .truncated
  | op :: bs =>
    match elemOfOp op with
    | none => .error .notOnPage
    | some el =>
      if e.pfx.contains .repne || e.pfx.contains .rep then .error .notOnPage
      else if e.pfx.contains .lock then .error .invalidOpcode
      else if e.pfx.contains .opSize then takeSseOperands m e el bs
      else if el = .qword then .error .needs66
      else takeMmxOperands m e el bs

/-- ModRM and what follows it for a VEX form whose vvvv names `src1` (R85, R99). -/
def takeVexOperands (m : CodeMode) (e : VexEnc) (src1 : VecReg) (l : Bool) (el : Elem) :
    List Byte → Except DecodeStop (Instr × List Byte)
  | [] => .error .truncated
  | modrm :: bs =>
    (takeRM m e.pfx e.vex.x e.vex.b (extReg e.vex.b) modrm bs).map
      (fun r => (vexInstr e (extReg e.vex.r (fieldMid modrm)) src1 r.1 l el, r.2))

/-- The bits of the last VEX byte: L, pp and the low three bits of the register number in vvvv (R94 to R96). -/
def vexL (b : Byte) : Bool := b.getLsbD 2

/-- VEX.pp. -/
def vexPp (b : Byte) : BitVec 2 := b.extractLsb' 0 2

/-- The register number in vvvv without its fourth bit, turned back from its inverted form (R94). -/
def vexV (b : Byte) : BitVec 3 := ~~~(b.extractLsb' 3 3)

/-- The opcode byte after a VEX prefix: `last` is the prefix's last byte and `mapOk` says that mmmmm is 00001B
(R97, R98, R102). -/
def decodeVexTail (m : CodeMode) (ps : List Pfx) (v : VexPrefix) (mapOk : Bool) (last : Byte) :
    List Byte → Except DecodeStop (Instr × List Byte)
  | [] => .error .truncated
  | op :: bs =>
    match elemOfOp op with
    | none => .error .notOnPage
    | some el =>
      if !mapOk || vexPp last != 1#2 then .error .notOnPage
      else if m ≠ .m64 ∧ v.b = true then .error .vexBOutside64
      else takeVexOperands m ⟨ps, v⟩ (extReg (m == .m64 && v.v3) (vexV last)) (vexL last) el bs

/-- The VEX prefix of two bytes after C5 (R96). -/
def vexTwo (b1 : Byte) : VexPrefix := .two (!b1.getLsbD 7) (!b1.getLsbD 6)

/-- The VEX prefix of three bytes after C4 (R95). -/
def vexThree (b1 b2 : Byte) : VexPrefix :=
  .three (b2.getLsbD 7) (!b1.getLsbD 7) (!b1.getLsbD 6) (!b1.getLsbD 5) (!b2.getLsbD 6)

/-- Whether a prefix that may not stand before a VEX prefix is there (R100), an ignored REX byte too (log 21). -/
def badBeforeVex (ps : List Pfx) (rex : Option Rex) : Bool :=
  rex.isSome || ps.any Pfx.isRex || ps.contains .opSize || ps.contains .repne || ps.contains .rep || ps.contains .lock

/-- The VEX shape after the byte C5 or C4 (R95 to R98, R100). -/
def decodeVex (m : CodeMode) (ps : List Pfx) (rex : Option Rex) (three : Bool) :
    List Byte → Except DecodeStop (Instr × List Byte)
  | [] => .error .truncated
  | b1 :: bs =>
    if m ≠ .m64 ∧ fieldHi b1 ≠ 3#2 then .error .notOnPage
    else if badBeforeVex ps rex then .error .invalidOpcode
    else if three then
      match bs with
      | [] => .error .truncated
      | b2 :: bs => decodeVexTail m ps (vexThree b1 b2) (b1.extractLsb' 0 5 == 1#5) b2 bs
    else decodeVexTail m ps (vexTwo b1) true b1 bs

/-- The first opcode or VEX byte, after the prefixes and REX (R102). -/
def decodeOpcode (m : CodeMode) (ps : List Pfx) (rex : Option Rex) :
    List Byte → Except DecodeStop (Instr × List Byte)
  | [] => .error .truncated
  | b :: bs =>
    if b = 0x0F#8 then decodeLegacy m ⟨ps, rex⟩ bs
    else if b = 0xC5#8 then decodeVex m ps rex false bs
    else if b = 0xC4#8 then decodeVex m ps rex true bs
    else .error .notOnPage

/-! ### Length -/

/-- Displacement bytes (R104). -/
def Disp.len : Disp → Nat
  | .absent => 0
  | .d8 _ => 1
  | .d16 _ => 2
  | .d32 _ => 4

/-- SIB and displacement bytes of an address form (R104). -/
def AddrForm.len : AddrForm → Nat
  | .base _ d => d.len
  | .sib _ _ _ d => 1 + d.len
  | .sibNoBase _ _ _ => 5
  | .abs32 _ => 4
  | .ripRel _ => 4
  | .regs16 _ d => d.len
  | .abs16 _ => 2

/-- ModRM, SIB and displacement bytes of an r/m operand (R104). -/
def RM.len {k : Nat} : RM k → Nat
  | .reg _ => 1
  | .mem o => 1 + o.form.len

/-- Length of the legacy shape: prefixes, REX, two opcode bytes, ModRM and what follows (R104). -/
def legacyLen {k : Nat} (e : LegacyEnc) (src : RM k) : Nat :=
  e.pfx.length + (if e.rex.isSome then 1 else 0) + 2 + src.len

/-- Bytes of a VEX prefix (R95, R96). -/
def VexPrefix.len : VexPrefix → Nat
  | .two _ _ => 2
  | .three _ _ _ _ _ => 3

/-- Length of the VEX shape: prefixes, VEX, one opcode byte, ModRM and what follows (R104). -/
def vexLen (e : VexEnc) (src2 : RM 4) : Nat := e.pfx.length + e.vex.len + 1 + src2.len

/-- The `len` of the decoded record (R104, R110). -/
def Instr.len : Instr → Nat
  | .punpckhbwMm e _ r => legacyLen e r
  | .punpckhwdMm e _ r => legacyLen e r
  | .punpckhdqMm e _ r => legacyLen e r
  | .punpckhbwXmm e _ r => legacyLen e r
  | .punpckhwdXmm e _ r => legacyLen e r
  | .punpckhdqXmm e _ r => legacyLen e r
  | .punpckhqdqXmm e _ r => legacyLen e r
  | .vpunpckhbwXmm e _ _ r => vexLen e r
  | .vpunpckhwdXmm e _ _ r => vexLen e r
  | .vpunpckhdqXmm e _ _ r => vexLen e r
  | .vpunpckhqdqXmm e _ _ r => vexLen e r
  | .vpunpckhbwYmm e _ _ r => vexLen e r
  | .vpunpckhwdYmm e _ _ r => vexLen e r
  | .vpunpckhdqYmm e _ _ r => vexLen e r
  | .vpunpckhqdqYmm e _ _ r => vexLen e r

/-- The decoder (R102): the instruction at the head of a byte sequence and the bytes after it, or why there is none. A REX
byte followed by another prefix is ignored (R92; log 21). -/
def decode (m : CodeMode) (bs : List Byte) : Except DecodeStop (Instr × List Byte) :=
  if repeated (takePrefixes m bs).1 then .error .repeatedPrefix
  else
    match decodeOpcode m (splitRex (takePrefixes m bs).1).1 (splitRex (takePrefixes m bs).1).2 (takePrefixes m bs).2 with
    | .error d => .error d
    | .ok (i, rest) => if Config.maxInstrLen < i.len then .error .tooLong else .ok (i, rest)

/-! ### Encoding -/

/-- The two bytes of a 16-bit displacement, lowest first (R89). -/
def bytes16 (v : BitVec 16) : List Byte := [v.extractLsb' 0 8, v.extractLsb' 8 8]

/-- The four bytes of a 32-bit displacement, lowest first (R87). -/
def bytes32 (v : BitVec 32) : List Byte :=
  [v.extractLsb' 0 8, v.extractLsb' 8 8, v.extractLsb' 16 8, v.extractLsb' 24 8]

/-- The displacement bytes (R87, R89). -/
def Disp.bytes : Disp → List Byte
  | .absent => []
  | .d8 v => [v]
  | .d16 v => bytes16 v
  | .d32 v => bytes32 v

/-- ModRM.mod of a displacement (R86). -/
def Disp.mod : Disp → BitVec 2
  | .absent => 0#2
  | .d8 _ => 1#2
  | .d16 _ => 2#2
  | .d32 _ => 2#2

/-- ModRM.mod of an address form (R87 to R90). -/
def AddrForm.mod : AddrForm → BitVec 2
  | .base _ d => d.mod
  | .sib _ _ _ d => d.mod
  | .sibNoBase _ _ _ => 0#2
  | .abs32 _ => 0#2
  | .ripRel _ => 0#2
  | .regs16 _ d => d.mod
  | .abs16 _ => 0#2

/-- ModRM.r/m of an address form (R87 to R90). -/
def AddrForm.rm : AddrForm → BitVec 3
  | .base b _ => lowReg b
  | .sib _ _ _ _ => 4#3
  | .sibNoBase _ _ _ => 4#3
  | .abs32 _ => 5#3
  | .ripRel _ => 5#3
  | .regs16 rm _ => rm
  | .abs16 _ => 6#3

/-- SIB and displacement bytes of an address form (R87 to R90). -/
def AddrForm.bytes : AddrForm → List Byte
  | .base _ d => d.bytes
  | .sib b i sc d => joinFields sc (lowReg i) (lowReg b) :: d.bytes
  | .sibNoBase i sc d => joinFields sc (lowReg i) 5#3 :: bytes32 d
  | .abs32 d => bytes32 d
  | .ripRel d => bytes32 d
  | .regs16 _ d => d.bytes
  | .abs16 d => bytes16 d

/-- ModRM and what follows it; `low` gives the r/m field of a register (R84 to R86). -/
def encodeRM {k : Nat} (low : BitVec k → BitVec 3) (reg : BitVec 3) : RM k → List Byte
  | .reg r => [joinFields 3#2 reg (low r)]
  | .mem o => joinFields o.form.mod reg o.form.rm :: o.form.bytes

/-- The legacy shape (R80): prefixes, REX, 0F, the opcode byte, ModRM and what follows. -/
def encodeLegacy (e : LegacyEnc) (el : Elem) (tail : List Byte) : List Byte :=
  e.pfx.map Pfx.toByte ++ ((e.rex.map Rex.toByte).toList ++ (0x0F#8 :: el.toOp :: tail))

/-- The last byte of a VEX prefix: its top bit, vvvv', L and pp = 01B (R95 to R97). -/
def vexLast (top v3 : Bool) (v : BitVec 3) (l : Bool) : Byte :=
  BitVec.ofBool top ++ BitVec.ofBool (!v3) ++ ~~~v ++ BitVec.ofBool l ++ 1#2

/-- The bytes of a VEX prefix with first source `src1` (R95, R96). -/
def VexPrefix.bytes (src1 : VecReg) (l : Bool) : VexPrefix → List Byte
  | .two r v3 => [0xC5#8, vexLast (!r) v3 (lowReg src1) l]
  | .three w r x b v3 =>
    [0xC4#8, BitVec.ofBool (!r) ++ BitVec.ofBool (!x) ++ BitVec.ofBool (!b) ++ 1#5, vexLast w v3 (lowReg src1) l]

/-- The VEX shape (R80): prefixes, VEX, the opcode byte, ModRM and what follows. -/
def encodeVex (e : VexEnc) (src1 : VecReg) (l : Bool) (el : Elem) (tail : List Byte) : List Byte :=
  e.pfx.map Pfx.toByte ++ (e.vex.bytes src1 l ++ (el.toOp :: tail))

/-- The bytes of an instruction (R81, R82). -/
def encode : Instr → List Byte
  | .punpckhbwMm e d r => encodeLegacy e .byte (encodeRM (fun k => k) d r)
  | .punpckhwdMm e d r => encodeLegacy e .word (encodeRM (fun k => k) d r)
  | .punpckhdqMm e d r => encodeLegacy e .dword (encodeRM (fun k => k) d r)
  | .punpckhbwXmm e d r => encodeLegacy e .byte (encodeRM lowReg (lowReg d) r)
  | .punpckhwdXmm e d r => encodeLegacy e .word (encodeRM lowReg (lowReg d) r)
  | .punpckhdqXmm e d r => encodeLegacy e .dword (encodeRM lowReg (lowReg d) r)
  | .punpckhqdqXmm e d r => encodeLegacy e .qword (encodeRM lowReg (lowReg d) r)
  | .vpunpckhbwXmm e d a r => encodeVex e a false .byte (encodeRM lowReg (lowReg d) r)
  | .vpunpckhwdXmm e d a r => encodeVex e a false .word (encodeRM lowReg (lowReg d) r)
  | .vpunpckhdqXmm e d a r => encodeVex e a false .dword (encodeRM lowReg (lowReg d) r)
  | .vpunpckhqdqXmm e d a r => encodeVex e a false .qword (encodeRM lowReg (lowReg d) r)
  | .vpunpckhbwYmm e d a r => encodeVex e a true .byte (encodeRM lowReg (lowReg d) r)
  | .vpunpckhwdYmm e d a r => encodeVex e a true .word (encodeRM lowReg (lowReg d) r)
  | .vpunpckhdqYmm e d a r => encodeVex e a true .dword (encodeRM lowReg (lowReg d) r)
  | .vpunpckhqdqYmm e d a r => encodeVex e a true .qword (encodeRM lowReg (lowReg d) r)

/-! ### The opcode table's numbering of bits -/

/-- The first `n` bytes of a word numbered as spec/opcode_table.json numbers its bits: byte k is bits 8k+7..8k. -/
def wordBytes (w : Nat) : Nat → List Byte
  | 0 => []
  | n + 1 => BitVec.ofNat 8 w :: wordBytes (w / 256) n

/-- The bytes of a table word of `nbits` bits, continued with zero bytes to the longest instruction. -/
def tableBytes (nbits w : Nat) : List Byte := wordBytes (w % 2 ^ nbits) Config.maxInstrLen

/-- What the decoder reads from a table word. The table's rows are read in 64-bit mode, the one mode in which every row's
word starts an instruction of the page (R98; log 12). -/
def decodeTableWord (nbits w : Nat) : Option Instr :=
  match decode .m64 (tableBytes nbits w) with
  | .ok (i, _) => some i
  | .error _ => none

end Sys2Proof
end

