-- ==== Sys2Proof/Machine/State.lean ====
section
/-! DEFINITION. State: everything the spec gives the machine, as plain data (10_state.md), the reasons a step stops, and
the state after reset (10_state.md R35). -/

namespace Sys2Proof.Machine

/-- A segment register with the parts of its descriptor that the segment check reads (20_memory.md R53). -/
structure SegReg where
  selector : BitVec 16
  base : BitVec 64
  limit : BitVec 32
  readable : Bool
deriving DecidableEq, Repr

/-- The six segment registers (R53). -/
structure SegRegs where
  es : SegReg
  cs : SegReg
  ss : SegReg
  ds : SegReg
  fs : SegReg
  gs : SegReg
deriving DecidableEq, Repr

/-- The four CPUID feature flags, read-only (10_state.md R29): 01H:EDX.23, 01H:EDX.26, 01H:ECX.28, 07H(0):EBX.5. -/
structure Features where
  mmx : Bool
  sse2 : Bool
  avx : Bool
  avx2 : Bool
deriving DecidableEq, Repr

/-- What a range of linear addresses is beside being mapped (20_memory.md R60, R63). -/
inductive RegionKind
  /-- present, not readable at privilege level 3 (R63) -/
  | supervisor
  /-- present, not readable at any level (R63) -/
  | noAccess
  /-- device space: a read may have side effects (R60) -/
  | device
deriving DecidableEq, Repr

/-- A range of linear addresses, `base` to `base + size - 1`. -/
structure Region where
  base : Nat
  size : Nat
  kind : RegionKind
deriving DecidableEq, Repr

/-- The state of the one logical processor and its memory. -/
structure State where
  /-- MM0 to MM7 (R20): bits 63:0 of the physical x87 data registers (R32) -/
  mm : Vector (BitVec 64) 8
  /-- bits 79:64 of the physical x87 data registers (R32) -/
  x87Hi : Vector (BitVec 16) 8
  /-- x87 status word: ES bit 7, TOS bits 13:11 (R30, R32) -/
  x87Status : BitVec 16
  /-- x87 tag word (R32) -/
  x87Tag : BitVec 16
  /-- YMM0 to YMM15; XMM registers are their bits 127:0 (R21, R22) -/
  ymm : Vector (BitVec 256) 16
  /-- SIMD control and status register (R28) -/
  mxcsr : BitVec 32
  /-- general registers (R25) -/
  gpr : Vector (BitVec 64) 16
  /-- the program counter (R26) -/
  rip : BitVec 64
  /-- the flags register: VM bit 17, AC bit 18 (R28, R30) -/
  rflags : BitVec 64
  /-- CR0: PE bit 0, EM bit 2, TS bit 3, AM bit 18 (R30) -/
  cr0 : BitVec 64
  /-- CR2: the page-fault linear address (R63); no completed step writes it -/
  cr2 : BitVec 64
  /-- CR4: OSFXSR bit 9, OSXSAVE bit 18 (R30) -/
  cr4 : BitVec 64
  /-- XCR0: SSE bit 1, AVX bit 2 (R30) -/
  xcr0 : BitVec 64
  /-- current privilege level (R217) -/
  cpl : BitVec 2
  /-- MODE64 and the default address size (R6, R102) -/
  codeMode : CodeMode
  /-- segment registers (R53) -/
  segs : SegRegs
  /-- CPUID feature flags, constant (R29) -/
  features : Features
  /-- the open parameters of the implementation, constant (R6, U1) -/
  params : Config.Params
  /-- memory: a partial map from linear addresses to bytes, rising (R61) -/
  mem : List Host.Cell
  /-- protection and device ranges (R60, R63) -/
  regions : List Region
deriving DecidableEq, Repr

/-- The exceptions a form can raise (60_exceptions.md R201). -/
inductive Exc
  /-- #UD, invalid opcode: feature absent, control state, mode, LOCK or a prefix before VEX -/
  | ud
  /-- #NM, device not available: CR0.TS = 1 -/
  | nm
  /-- #SS(0), stack-segment fault -/
  | ss
  /-- #GP(0), general protection -/
  | gp
  /-- #PF, page fault, with its error code and the faulting linear address -/
  | pf (code : BitVec 32) (addr : BitVec 64)
  /-- #MF, pending x87 floating-point error -/
  | mf
  /-- #AC(0), alignment check -/
  | ac
deriving DecidableEq, Repr

/-- Vector numbers (R201). -/
def Exc.vector : Exc → Nat
  | .ud => 6
  | .nm => 7
  | .ss => 12
  | .gp => 13
  | .pf _ _ => 14
  | .mf => 16
  | .ac => 17

/-- Error codes (R202), outside real-address mode (`Fault.errorCode`). -/
def Exc.errorCode : Exc → Option (BitVec 32)
  | .ud => none
  | .nm => none
  | .ss => some 0
  | .gp => some 0
  | .pf code _ => some code
  | .mf => none
  | .ac => some 0

/-- Why the machine stops with a fault. Every constructor carries the state of the outcome, which the spec says is the state
before the step, unchanged (60_exceptions.md R202, R212). -/
inductive Fault
  /-- `Fault(#XX, code)` of R14 and R202: raised by the decoder (#UD, #GP), by `usable` (#UD, #NM, #MF) and by the memory
  operand (#SS, #GP, #PF, #AC). Safe: the spec names it; exception entry is out of scope (R213, log 1). -/
  | raised (x : Exc) (s : State)
  /-- raised by a memory operand in real-address mode with a byte that the memory map does not list (R61; R205 and R207 have
  no page fault there; log 5). Safe: the model stops where a processor would read something or fault. -/
  | noMemory (addr : Nat) (s : State)
deriving DecidableEq, Repr

/-- The exception a fault is, if it is one of the architecture's. -/
def Fault.exc? : Fault → Option Exc
  | .raised x _ => some x
  | .noMemory _ _ => none

/-- The state a fault outcome carries (R202). -/
def Fault.state : Fault → State
  | .raised _ s => s
  | .noMemory _ s => s

/-- Why a step has no meaning (`Refused(reason)` of R14). A refusal is no statement about the processor. -/
inductive Refusal
  /-- an instruction without a meaning in this model, by name: raised by `exec` only, for no instruction now. Safe. -/
  | notModelled (mnemonic : String)
  /-- a repeated prefix or two segment overrides (30_encoding.md R91): raised by the decoder. Safe. -/
  | repeatedPrefix
  /-- an encoding that is not one of the fifteen forms (R105): raised by the decoder. Safe. -/
  | notOnPage
  /-- 0F 6D without a 66 prefix (R105): raised by the decoder. Safe. -/
  | opcode6DWithout66
  /-- a three-byte VEX prefix with B' = 0 outside 64-bit mode (R98): raised by the decoder. Safe. -/
  | vexBOutside64
  /-- an instruction byte that cannot be fetched: fetch faults are outside the model (92_eei_decisions.md D1): raised by the
  fetch. Safe. -/
  | fetchUnreadable
  /-- an instruction that would run past the top of the address space (10_state.md R26): raised by the fetch. Safe. -/
  | runsPastTop
  /-- a memory operand that runs past the end of the effective-address space (20_memory.md R62) and passes the segment
  check: raised by the memory operand. Safe. -/
  | operandPastEnd
  /-- a memory operand in device space (R60): raised by the memory operand. Safe. -/
  | deviceOperand
deriving DecidableEq, Repr

/-- The outcome of a step (00_scope.md R14). -/
abbrev Result := Host.Outcome State Fault Refusal

/-- A segment register after reset: the family's real-address segment (log 9). -/
def SegReg.atReset (selector : BitVec 16) (base : BitVec 64) : SegReg := ⟨selector, base, 0xFFFF#32, true⟩

/-- The state after reset: the values of 10_state.md R35 where it states one, else the values of logs 9, 10 and 11. -/
def State.reset : State where
  mm := Vector.replicate 8 0
  x87Hi := Vector.replicate 8 0
  x87Status := 0
  x87Tag := 0xFFFF
  ymm := Vector.replicate 16 0
  mxcsr := 0x1F80
  gpr := Vector.replicate 16 0
  rip := 0xFFF0
  rflags := 0x2
  cr0 := 0x60000010
  cr2 := 0
  cr4 := 0
  xcr0 := 1
  cpl := 0
  codeMode := .m16
  segs := {
    es := SegReg.atReset 0 0
    cs := SegReg.atReset 0xF000 0xFFFF0000
    ss := SegReg.atReset 0 0
    ds := SegReg.atReset 0 0
    fs := SegReg.atReset 0 0
    gs := SegReg.atReset 0 0 }
  features := ⟨true, true, true, true⟩
  params := ⟨false, false, .table⟩
  mem := []
  regions := []

end Sys2Proof.Machine
end

