-- ==== Sys2Proof/Machine/Flags.lean ====
section
/-! DEFINITION. Flags: the control and status bits that the checks read (10_state.md R30) and the modes they make. No form
computes, reads or writes a condition code: "Flags Affected: None." (10_state.md R28), so there is no flag computation. -/

namespace Sys2Proof.Machine

/-- CR0.PE, bit 0. -/
def State.pe (s : State) : Bool := s.cr0.getLsbD 0

/-- CR0.EM, bit 2. -/
def State.em (s : State) : Bool := s.cr0.getLsbD 2

/-- CR0.TS, bit 3. -/
def State.ts (s : State) : Bool := s.cr0.getLsbD 3

/-- CR0.AM, bit 18. -/
def State.am (s : State) : Bool := s.cr0.getLsbD 18

/-- CR4.OSFXSR, bit 9. -/
def State.osfxsr (s : State) : Bool := s.cr4.getLsbD 9

/-- CR4.OSXSAVE, bit 18. -/
def State.osxsave (s : State) : Bool := s.cr4.getLsbD 18

/-- XCR0[2:1] = 11B. -/
def State.avxState (s : State) : Bool := s.xcr0.getLsbD 1 && s.xcr0.getLsbD 2

/-- EFLAGS.VM, bit 17. -/
def State.vmFlag (s : State) : Bool := s.rflags.getLsbD 17

/-- EFLAGS.AC, bit 18. -/
def State.acFlag (s : State) : Bool := s.rflags.getLsbD 18

/-- x87 status word ES, bit 7: an unmasked x87 exception is pending. -/
def State.x87Es (s : State) : Bool := s.x87Status.getLsbD 7

/-- x87 status word TOS, bits 13:11 (R32). -/
def State.x87Tos (s : State) : BitVec 3 := s.x87Status.extractLsb' 11 3

/-- The operating modes (60_exceptions.md R205, R217). -/
inductive OpMode
  | real | v86 | prot | long
deriving DecidableEq, Repr

/-- The mode: 64-bit mode, else real-address mode where PE = 0, virtual-8086 mode where VM = 1, protected or
compatibility mode otherwise (10_state.md R30). -/
def State.opMode (s : State) : OpMode :=
  if s.codeMode = .m64 then .long
  else if s.pe = false then .real
  else if s.vmFlag then .v86
  else .prot

/-- VEX_MODE_OK: false in real-address and virtual-8086 mode (00_scope.md R6). -/
def State.vexModeOk (s : State) : Bool := s.opMode == .long || s.opMode == .prot

/-- AC_ENABLED: CR0.AM = 1, EFLAGS.AC = 1 and privilege level 3, not in real-address mode (20_memory.md R58,
60_exceptions.md R207). -/
def State.acEnabled (s : State) : Bool := s.am && s.acFlag && s.cpl == 3#2 && s.opMode != .real

end Sys2Proof.Machine
end

