-- ==== Sys2Proof/Machine/Interleave.lean ====
section
/-! DEFINITION. Interleave: the pure functions of 40_interleave_functions.md R130, R139 and R140. -/

namespace Sys2Proof.Machine

/-- Element `k` of width `w` of a vector (R130). -/
def elemOf {n : Nat} (w : Nat) (v : BitVec n) (k : Nat) : BitVec w := v.extractLsb' (w * k) w

/-- A vector of `n` bits that holds an element at position `k` and is 0 elsewhere. -/
def elemAt (n : Nat) {w : Nat} (k : Nat) (e : BitVec w) : BitVec n := e.setWidth n <<< (w * k)

/-- The first `2 * i` elements of the interleave of the elements of `a` and `b` from number `h` on: result element `2j` is
element `h + j` of `a` and result element `2j + 1` is element `h + j` of `b` (R139, R140). -/
def interleaveFrom {n : Nat} (w h : Nat) (a b : BitVec n) : Nat → BitVec n
  | 0 => 0#n
  | i + 1 =>
    interleaveFrom w h a b i ||| elemAt n (2 * i) (elemOf w a (h + i)) ||| elemAt n (2 * i + 1) (elemOf w b (h + i))

/-- IH64 (R140): the high elements of width 8, 16 or 32 of two 64-bit vectors, interleaved. -/
def ih64 (w : Nat) (a b : BitVec 64) : BitVec 64 := interleaveFrom w (32 / w) a b (32 / w)

/-- IH128 (R139): the high elements of width 8, 16, 32 or 64 of two 128-bit vectors, interleaved. -/
def ih128 (w : Nat) (a b : BitVec 128) : BitVec 128 := interleaveFrom w (64 / w) a b (64 / w)

/-- The low 128-bit lane of a 256-bit vector (00_scope.md R16). -/
def laneLow (v : BitVec 256) : BitVec 128 := v.extractLsb' 0 128

/-- The high 128-bit lane of a 256-bit vector (00_scope.md R16). -/
def laneHigh (v : BitVec 256) : BitVec 128 := v.extractLsb' 128 128

/-- IH256 (R139): IH128 on each lane. -/
def ih256 (w : Nat) (a b : BitVec 256) : BitVec 256 :=
  ih128 w (laneHigh a) (laneHigh b) ++ ih128 w (laneLow a) (laneLow b)

end Sys2Proof.Machine
end

