-- ==== Sys2Proof/Machine/Ops.lean ====
section
/-! DEFINITION. Ops: the named operations over registers and memory, the checks of the memory operand in the order of
60_exceptions.md R210, the checks before an instruction (R208), raising an exception, and completing a step. -/

namespace Sys2Proof.Machine

/-! ### Registers -/

/-- `mm[i]` (00_scope.md R10). -/
def State.readMm (s : State) (i : MmReg) : BitVec 64 := s.mm[i.toFin]

/-- `ymm[i]` (00_scope.md R10). -/
def State.readYmm (s : State) (i : VecReg) : BitVec 256 := s.ymm[i.toFin]

/-- `xmm[i]`, that is `ymm[i][127:0]` (10_state.md R22). -/
def State.readXmm (s : State) (i : VecReg) : BitVec 128 := laneLow (s.readYmm i)

/-- A general register, all 64 bits (10_state.md R25). -/
def State.readGpr (s : State) (i : GenReg) : BitVec 64 := s.gpr[i.toFin]

/-- Bits 79:64 of a physical x87 data register (10_state.md R32). -/
def State.readX87Hi (s : State) (i : MmReg) : BitVec 16 := s.x87Hi[i.toFin]

/-- `mm[i] <- v` (00_scope.md R10). -/
def State.writeMm (s : State) (i : MmReg) (v : BitVec 64) : State := { s with mm := s.mm.set i.toFin v }

/-- `ymm[i] <- v`: all 256 bits (00_scope.md R10). -/
def State.writeYmm (s : State) (i : VecReg) (v : BitVec 256) : State := { s with ymm := s.ymm.set i.toFin v }

/-- `ymm[i][127:0] <- v`: bits 255:128 stay (10_state.md R22, the legacy SSE write). -/
def State.writeXmmLegacy (s : State) (i : VecReg) (v : BitVec 128) : State :=
  s.writeYmm i (laneHigh (s.readYmm i) ++ v)

/-- `ymm[i] <- Zeros(128) ++ v` (10_state.md R22, the VEX.128 write). -/
def State.writeXmmVex (s : State) (i : VecReg) (v : BitVec 128) : State := s.writeYmm i (0#128 ++ v)

/-- The status word with TOS = 000B (R32 (a)). -/
def clearTos (w : BitVec 16) : BitVec 16 := w &&& 0xC7FF#16

/-- The x87 side effects of a completing MMX form that writes `mm[i]` (R32): TOS is 0, the tag word is 0000H, bits 79:64 of the
register are all ones. -/
def State.mmxSideEffects (s : State) (i : MmReg) : State :=
  { s with x87Status := clearTos s.x87Status, x87Tag := 0#16, x87Hi := s.x87Hi.set i.toFin 0xFFFF#16 }

/-! ### Program counter -/

/-- The size of the address space of the program counter: EIP has 32 bits outside 64-bit mode, RIP 64 in it (R26). -/
def State.pcSpan (s : State) : Nat := if s.codeMode = .m64 then 2 ^ 64 else 2 ^ 32

/-- `pc + len` (R26); where that is past the top of the address space its value is free (log 6). -/
def State.nextRip (s : State) (len : Nat) : BitVec 64 :=
  if s.rip.toNat + len < s.pcSpan then BitVec.ofNat 64 (s.rip.toNat + len)
  else if s.codeMode = .m64 then Config.pcPastTop s.rip len
  else ((Config.pcPastTop s.rip len).setWidth 32).setWidth 64

/-- `pc <- pc + len` (R26). -/
def State.advance (s : State) (len : Nat) : State := { s with rip := s.nextRip len }

/-! ### Memory -/

/-- The byte a memory lists at an address; none where the address is outside the map (20_memory.md R61). -/
def memGet : List Host.Cell → Nat → Option Byte
  | [], _ => none
  | c :: m, a => if c.1 = a then some c.2 else memGet m a

/-- The memory with a byte placed at an address, its addresses still rising. -/
def memSet : List Host.Cell → Nat → Byte → List Host.Cell
  | [], a, b => [(a, b)]
  | c :: m, a, b =>
    if a < c.1 then (a, b) :: c :: m
    else if a = c.1 then (a, b) :: m
    else c :: memSet m a b

/-- Consecutive bytes placed from an address on, addresses modulo `span`. -/
def memSetBytes (span : Nat) (m : List Host.Cell) (a : Nat) : List Byte → List Host.Cell
  | [] => m
  | b :: bs => memSetBytes span (memSet m (a % span) b) (a + 1) bs

/-- Whether every listed address is above a bound. -/
def memAbove (a : Nat) : List Host.Cell → Bool
  | [] => true
  | c :: m => decide (a < c.1) && memAbove a m

/-- The canonical form of a memory: addresses strictly rising, all of them linear addresses of at most 64 bits. An address not
listed has no byte, so no listed entry can say what an unlisted address says. -/
def memWf : List Host.Cell → Bool
  | [] => true
  | c :: m => decide (c.1 < 2 ^ 64) && memAbove c.1 m && memWf m

/-- The byte of the state's memory at a linear address. -/
def State.byteAt (s : State) (a : Nat) : Option Byte := memGet s.mem a

/-- A segment register (20_memory.md R53). -/
def State.segReg (s : State) : Seg → SegReg
  | .es => s.segs.es
  | .cs => s.segs.cs
  | .ss => s.segs.ss
  | .ds => s.segs.ds
  | .fs => s.segs.fs
  | .gs => s.segs.gs

/-- The base of a segment: in 64-bit mode that of CS, DS, ES and SS is treated as 0 (R53). -/
def State.segBase (s : State) (g : Seg) : Nat :=
  if s.codeMode = .m64 ∧ g ≠ .fs ∧ g ≠ .gs then 0 else (s.segReg g).base.toNat

/-- The linear address of byte `k` of an operand at an effective address: 32 bits outside 64-bit mode, 64 in it
(R61, R62). -/
def State.linear (s : State) (g : Seg) (addr : BitVec 64) (k : Nat) : Nat :=
  (s.segBase g + addr.toNat + k) % s.pcSpan

/-- Whether bits 63:47 of a linear address are all equal (R53). -/
def canonical (a : Nat) : Bool := decide (a < 2 ^ 47) || decide (2 ^ 64 - 2 ^ 47 ≤ a)

/-- Whether a selector is null: its index and table bits are 0. -/
def SegReg.isNull (r : SegReg) : Bool := r.selector &&& 0xFFFC#16 == 0#16

/-- The segment check of R53 on bytes `addr` to `addr + n - 1`: canonical linear addresses in 64-bit mode, offsets 0 to
FFFFH in real-address and virtual-8086 mode, a usable readable segment and its limit otherwise. -/
def State.segOk (s : State) (g : Seg) (addr : BitVec 64) (n : Nat) : Bool :=
  match s.opMode with
  | .long => (List.range n).all (fun k => canonical (s.linear g addr k))
  | .real => decide (addr.toNat + n ≤ 0x10000)
  | .v86 => decide (addr.toNat + n ≤ 0x10000)
  | .prot =>
    !(s.segReg g).isNull && (s.segReg g).readable && decide (addr.toNat + n ≤ (s.segReg g).limit.toNat + 1)

/-- The number of the free function that stands for Type4Check, if one does: in the place of the tables of R205 and, for the MMX
forms, R207 (R6, decision D12; log 4). -/
def State.replaced (s : State) : Option Nat :=
  match s.params.type4 with
  | .other k => some k
  | .table => none
  | .tableR53 => none

/-- Whether a segment fault through SS is #GP(0) in real-address and virtual-8086 mode: by the default table of R205, for the
forms of that class (log 13). -/
def State.ssIsGp (s : State) (c : Cls) : Bool :=
  c != .mmx && s.params.type4 == .table && (s.opMode == .real || s.opMode == .v86)

/-- The fault of a failed segment check: #SS(0) through SS, #GP(0) otherwise and for a null selector (R53), and as the table
of R205 has it (log 13). -/
def State.segFault (s : State) (c : Cls) (g : Seg) : Exc :=
  if g = .ss ∧ ¬ (s.opMode = .prot ∧ (s.segReg g).isNull = true) ∧ s.ssIsGp c = false then .ss else .gp

/-- The segment check of a form: a free Type4Check stands in its place (log 4). -/
def State.segPass (s : State) (g : Seg) (addr : BitVec 64) (n : Nat) : Bool :=
  s.replaced.isSome || s.segOk g addr n

/-- Bytes of a memory operand of a class (20_memory.md R50). -/
def operandSize : Cls → Nat
  | .mmx => 8
  | .sse => 16
  | .vex128 => 16
  | .vex256 => 32

/-- The boundary on which a class requires its memory operand, 1 where it requires none (20_memory.md R56, R57, R58). That of the
legacy SSE forms is a row of the table of R205, so a free Type4Check stands in its place; that of the VEX forms is no row of it but
the parameter VEX_ALIGN_ENFORCED alone (90_conflicts.md C7; log 4). -/
def boundary (s : State) (c : Cls) : Nat :=
  match c with
  | .mmx => 1
  | .sse => if s.replaced.isSome then 1 else 16
  | .vex128 => if s.params.vexAlignEnforced = true then 16 else 1
  | .vex256 => if s.params.vexAlignEnforced = true then 32 else 1

/-- The size of the effective-address space of an address size (R61, R62). -/
def addrSpan : AddrSize → Nat
  | .a16 => 2 ^ 16
  | .a32 => 2 ^ 32
  | .a64 => 2 ^ 64

/-- Whether a linear address lies in a region of the kind `p` accepts. -/
def State.inRegion (s : State) (p : RegionKind → Bool) (a : Nat) : Bool :=
  s.regions.any (fun r => decide (r.base ≤ a ∧ a < r.base + r.size) && p r.kind)

/-- Whether a byte is in device space (R60). -/
def State.isDevice (s : State) (a : Nat) : Bool := s.inRegion (fun k => k == .device) a

/-- Whether a byte is protected from a read at the current privilege level (R63). -/
def State.isProtected (s : State) (a : Nat) : Bool :=
  s.inRegion (fun k => k == .noAccess || (k == .supervisor && s.cpl == 3#2)) a

/-- Whether a byte is present: listed in memory, or of a device. -/
def State.isPresent (s : State) (a : Nat) : Bool := (s.byteAt a).isSome || s.isDevice a

/-- The page-fault error code of a read (R63): bit 0 present, bit 1 = 0, bit 2 privilege level 3, bit 4 = 0. R63 does not name
bit 3 and bits 5 to 31; that they are 0 is a DESIGN CHOICE of the model (log 20). -/
def State.pfCode (s : State) (present : Bool) : BitVec 32 :=
  (if present then 1#32 else 0#32) ||| (if s.cpl = 3#2 then 4#32 else 0#32)

/-- Why an instruction stops before it completes. -/
inductive Stop
  | exc (x : Exc)
  | noMemory (a : Nat)
  | refuse (r : Refusal)
deriving DecidableEq, Repr

/-- What the translation of one byte raises (R61, R63). In real-address mode there is no page fault (60_exceptions.md
R205, R207): an absent byte is the model's own fault (log 5). -/
def State.byteStop (s : State) (a : Nat) : Option Stop :=
  if s.opMode = .real then
    (if s.isPresent a then none else some (.noMemory a))
  else if !s.isPresent a then some (.exc (.pf (s.pfCode false) (BitVec.ofNat 64 a)))
  else if s.isProtected a then some (.exc (.pf (s.pfCode true) (BitVec.ofNat 64 a)))
  else none

/-- The number of the first byte of an operand that is fetched: with FETCH_HALF the upper 8 bytes of an m128 operand
(93_implementation_defined.md U1), else all (decision D8). -/
def State.fetchStart (s : State) (n : Nat) : Nat := if s.params.fetchHalf = true ∧ n = 16 then 8 else 0

/-- The linear addresses of an operand's bytes `i` to `n - 1`, in rising order of the byte's number. -/
def State.operandBytes (s : State) (g : Seg) (addr : BitVec 64) (i n : Nat) : List Nat :=
  (List.range' i (n - i)).map (s.linear g addr)

/-- The translation of an operand: the stop of its lowest-addressed byte that has one (R63, D27). -/
def State.transStop (s : State) (g : Seg) (addr : BitVec 64) (n : Nat) : Option Stop :=
  (s.operandBytes g addr (s.fetchStart n) n).findSome? s.byteStop

/-- The bytes at linear addresses `f 0` to `f (n - 1)` as one bit vector, little-endian (R51). A byte that memory does not list
(one that FETCH_HALF leaves unread) counts as 0 and reaches no result. -/
def State.loadLE (s : State) (w : Nat) (f : Nat → Nat) : Nat → BitVec w
  | 0 => 0#w
  | k + 1 => s.loadLE w f k ||| (((s.byteAt (f k)).getD 0#8).setWidth w <<< (8 * k))

/-- `MemRead(seg, addr, n)` of 20_memory.md R52 for the operand of a class, with the checks in the order of 60_exceptions.md
R209 and R210: the segment check, the refusal of R62, the #GP(0) alignment rule, translation, the alignment check of the MMX
forms (a row of R207, in whose place a free Type4Check stands, log 4), the refusal of device space (R60), the value. -/
def memRead (w : Nat) (s : State) (c : Cls) (g : Seg) (asz : AddrSize) (addr : BitVec 64) : Except Stop (BitVec w) :=
  if s.segPass g addr (operandSize c) = false then .error (.exc (s.segFault c g))
  else if addrSpan asz < addr.toNat + operandSize c then .error (.refuse .operandPastEnd)
  else if addr.toNat % boundary s c ≠ 0 then .error (.exc .gp)
  else
    match s.transStop g addr (operandSize c) with
    | some e => .error e
    | none =>
      if c = .mmx ∧ s.replaced = none ∧ s.acEnabled = true ∧ addr.toNat % 8 ≠ 0 then .error (.exc .ac)
      else if (s.operandBytes g addr 0 (operandSize c)).any s.isDevice then .error (.refuse .deviceOperand)
      else .ok (s.loadLE w (s.linear g addr) (operandSize c))

/-! ### The checks before an instruction -/

/-- FREE VALUE (log 4). The functions that can stand for the parameter Type4Check (00_scope.md R6, 60_exceptions.md R205): the
number of the function, then the form (its class and element), the machine context and the memory operand (its segment and effective
address) or none. -/
opaque otherType4Check : Nat → Cls → Elem → State → Option (Seg × BitVec 64) → Option Exc

/-- Whether the encoding of a class is an instruction in this mode on this processor (60_exceptions.md R204, R206 item 3). -/
def State.formThere (s : State) : Cls → Bool
  | .mmx => s.features.mmx
  | .sse => s.features.sse2
  | .vex128 => s.vexModeOk && s.features.avx
  | .vex256 => s.vexModeOk && s.features.avx2

/-- `Usable(class)` of 60_exceptions.md R208, the default. -/
def usableTable (c : Cls) (s : State) : Except Stop Unit :=
  match c with
  | .mmx =>
    if s.features.mmx = false then .error (.exc .ud)
    else if s.em = true then .error (.exc .ud)
    else if s.ts = true then .error (.exc .nm)
    else if s.x87Es = true then .error (.exc .mf)
    else .ok ()
  | .sse =>
    if s.features.sse2 = false then .error (.exc .ud)
    else if s.em = true ∨ s.osfxsr = false then .error (.exc .ud)
    else if s.ts = true then .error (.exc .nm)
    else .ok ()
  | .vex128 =>
    if s.vexModeOk = false then .error (.exc .ud)
    else if s.features.avx = false then .error (.exc .ud)
    else if s.osxsave = false ∨ s.avxState = false then .error (.exc .ud)
    else if s.ts = true then .error (.exc .nm)
    else .ok ()
  | .vex256 =>
    if s.vexModeOk = false then .error (.exc .ud)
    else if s.features.avx2 = false then .error (.exc .ud)
    else if s.osxsave = false ∨ s.avxState = false then .error (.exc .ud)
    else if s.ts = true then .error (.exc .nm)
    else .ok ()

/-- The checks before a form, of class `c` and element `el`, with the memory operand `op`: `Usable(class)`, or where a free function stands for Type4Check
the rules that are not its own (R204, R206) and then that function (log 4). -/
def usable (c : Cls) (el : Elem) (s : State) (op : Option (Seg × BitVec 64)) : Except Stop Unit :=
  match s.replaced with
  | none => usableTable c s
  | some k =>
    if s.formThere c = false then .error (.exc .ud)
    else
      match otherType4Check k c el s op with
      | some x => .error (.exc x)
      | none => .ok ()

/-! ### Exceptions and completion -/

/-- The error code that a fault outcome carries (R202): in real-address mode #GP and #SS have none (R205,
93_implementation_defined.md G22; log 4). -/
def Fault.errorCode : Fault → Option (BitVec 32)
  | .raised x s => if s.opMode = .real ∧ (x = .gp ∨ x = .ss) then none else x.errorCode
  | .noMemory _ _ => none

/-- Taking an exception: the terminal outcome `Fault(#XX, code)` that carries the unchanged state, `pc` still at the faulting
instruction (R202, R212, R213). The spec describes no entry sequence (D14) and no return (R214). -/
def State.raise (s : State) (x : Exc) : Result := .fault (.raised x s)

/-- The outcome of an instruction that computes a next state or stops (00_scope.md R14). -/
def State.finish (s : State) : Except Stop State → Result
  | .ok t => .next t
  | .error (.exc x) => s.raise x
  | .error (.noMemory a) => .fault (.noMemory a s)
  | .error (.refuse r) => .refused r

end Sys2Proof.Machine
end

