-- ==== Sys2Proof/Machine/Operands.lean ====
section
/-! DEFINITION. Operands: effective addresses (30_encoding.md R87 to R90) and the last source operand of each class
(20_memory.md R69). -/

namespace Sys2Proof.Machine

/-- A displacement sign-extended to 64 bits; the truncation of `truncAddr` makes it the extension to the address size
(R103). -/
def dispValue : Disp → BitVec 64
  | .absent => 0#64
  | .d8 v => v.signExtend 64
  | .d16 v => v.signExtend 64
  | .d32 v => v.signExtend 64

/-- An address sum reduced to its address size and zero-extended (R87, R89, R90). -/
def truncAddr (asz : AddrSize) (v : BitVec 64) : BitVec 64 :=
  match asz with
  | .a16 => (v.setWidth 16).setWidth 64
  | .a32 => (v.setWidth 32).setWidth 64
  | .a64 => v

/-- The scaled index; the register number 4 means no index (R88). -/
def State.indexValue (s : State) (i : GenReg) (sc : BitVec 2) : BitVec 64 :=
  if i = 4#4 then 0#64 else s.readGpr i <<< sc.toNat

/-- The registers that a row of the 16-bit table adds: BX + SI, BX + DI, BP + SI, BP + DI, SI, DI, BP, BX (R89). -/
def State.regs16Value (s : State) (rm : BitVec 3) : BitVec 64 :=
  if rm = 0#3 then s.readGpr 3 + s.readGpr 6
  else if rm = 1#3 then s.readGpr 3 + s.readGpr 7
  else if rm = 2#3 then s.readGpr 5 + s.readGpr 6
  else if rm = 3#3 then s.readGpr 5 + s.readGpr 7
  else if rm = 4#3 then s.readGpr 6
  else if rm = 5#3 then s.readGpr 7
  else if rm = 6#3 then s.readGpr 5
  else s.readGpr 3

/-- The sum that an address form stands for, before it is reduced to the address size; `len` is the length of the
instruction, for the address of the next one (R87 to R90). -/
def State.formValue (s : State) (len : Nat) : AddrForm → BitVec 64
  | .base b d => s.readGpr b + dispValue d
  | .sib b i sc d => s.readGpr b + s.indexValue i sc + dispValue d
  | .sibNoBase i sc d => s.indexValue i sc + dispValue (.d32 d)
  | .abs32 d => dispValue (.d32 d)
  | .ripRel d => s.rip + BitVec.ofNat 64 len + dispValue (.d32 d)
  | .regs16 rm d => s.regs16Value rm + dispValue d
  | .abs16 d => dispValue (.d16 d)

/-- The effective address of a memory operand (EA of 00_scope.md R6). -/
def State.effAddr (s : State) (len : Nat) (o : MemOp) : BitVec 64 := truncAddr o.asz (s.formValue len o.form)

/-- The memory operand of an instruction of length `len`, if it has one: its segment and effective address. -/
def State.operandOf {k : Nat} (s : State) (len : Nat) : RM k → Option (Seg × BitVec 64)
  | .reg _ => none
  | .mem o => some (o.seg, s.effAddr len o)

/-- The last source of an MMX form: a register or 8 bytes, no alignment required but for #AC (R54, R58, R69). -/
def State.srcMm (s : State) (len : Nat) : RM 3 → Except Stop (BitVec 64)
  | .reg r => .ok (s.readMm r)
  | .mem o => memRead 64 s .mmx o.seg o.asz (s.effAddr len o)

/-- The last source of a legacy SSE form: a register or 16 bytes on a 16-byte boundary (R55, R56, R69). -/
def State.srcXmmLegacy (s : State) (len : Nat) : RM 4 → Except Stop (BitVec 128)
  | .reg r => .ok (s.readXmm r)
  | .mem o => memRead 128 s .sse o.seg o.asz (s.effAddr len o)

/-- The last source of a VEX.128 form: a register or 16 bytes (R55, R57, R69). -/
def State.srcXmmVex (s : State) (len : Nat) : RM 4 → Except Stop (BitVec 128)
  | .reg r => .ok (s.readXmm r)
  | .mem o => memRead 128 s .vex128 o.seg o.asz (s.effAddr len o)

/-- The last source of a VEX.256 form: a register or 32 bytes (R57, R59, R69). -/
def State.srcYmm (s : State) (len : Nat) : RM 4 → Except Stop (BitVec 256)
  | .reg r => .ok (s.readYmm r)
  | .mem o => memRead 256 s .vex256 o.seg o.asz (s.effAddr len o)

end Sys2Proof.Machine
end

