-- ==== Sys2Proof/Machine/Mmx.lean ====
section
/-! DEFINITION. Mmx: the three MMX forms (41_mmx_64bit.md). -/

namespace Sys2Proof.Machine

/-- The step that the MMX forms share (60_exceptions.md R211, 41_mmx_64bit.md R153): the checks, both sources, IH64 at the
width of the element, the write of the 64-bit register, the x87 side effects (10_state.md R32), the advance of pc. -/
def stepMmx (el : Elem) (e : LegacyEnc) (dst : MmReg) (src : RM 3) (s : State) : Result :=
  s.finish (
    match usable .mmx el s (s.operandOf (legacyLen e src) src) with
    | .error x => .error x
    | .ok _ =>
      match s.srcMm (legacyLen e src) src with
      | .error x => .error x
      | .ok b =>
        .ok (((s.writeMm dst (ih64 el.width (s.readMm dst) b)).mmxSideEffects dst).advance (legacyLen e src)))

/-- PUNPCKHBW mm, mm/m64 (R150). -/
def execPunpckhbwMm (e : LegacyEnc) (dst : MmReg) (src : RM 3) (s : State) : Result :=
  stepMmx .byte e dst src s

/-- PUNPCKHWD mm, mm/m64 (R151). -/
def execPunpckhwdMm (e : LegacyEnc) (dst : MmReg) (src : RM 3) (s : State) : Result :=
  stepMmx .word e dst src s

/-- PUNPCKHDQ mm, mm/m64 (R152). -/
def execPunpckhdqMm (e : LegacyEnc) (dst : MmReg) (src : RM 3) (s : State) : Result :=
  stepMmx .dword e dst src s

end Sys2Proof.Machine
end

