-- ==== Sys2Proof/Machine/Sse.lean ====
section
/-! DEFINITION. Sse: the four legacy SSE forms (42_legacy_sse_128bit.md). -/

namespace Sys2Proof.Machine

/-- The step that the legacy SSE forms share (60_exceptions.md R211, 42_legacy_sse_128bit.md R164): the checks, both sources,
IH128 at the width of the element, the write of bits 127:0, the advance of pc. -/
def stepSse (el : Elem) (e : LegacyEnc) (dst : VecReg) (src : RM 4) (s : State) : Result :=
  s.finish (
    match usable .sse el s (s.operandOf (legacyLen e src) src) with
    | .error x => .error x
    | .ok _ =>
      match s.srcXmmLegacy (legacyLen e src) src with
      | .error x => .error x
      | .ok b => .ok ((s.writeXmmLegacy dst (ih128 el.width (s.readXmm dst) b)).advance (legacyLen e src)))

/-- PUNPCKHBW xmm1, xmm2/m128 (R160). -/
def execPunpckhbwXmm (e : LegacyEnc) (dst : VecReg) (src : RM 4) (s : State) : Result :=
  stepSse .byte e dst src s

/-- PUNPCKHWD xmm1, xmm2/m128 (R161). -/
def execPunpckhwdXmm (e : LegacyEnc) (dst : VecReg) (src : RM 4) (s : State) : Result :=
  stepSse .word e dst src s

/-- PUNPCKHDQ xmm1, xmm2/m128 (R162). -/
def execPunpckhdqXmm (e : LegacyEnc) (dst : VecReg) (src : RM 4) (s : State) : Result :=
  stepSse .dword e dst src s

/-- PUNPCKHQDQ xmm1, xmm2/m128 (R163). -/
def execPunpckhqdqXmm (e : LegacyEnc) (dst : VecReg) (src : RM 4) (s : State) : Result :=
  stepSse .qword e dst src s

end Sys2Proof.Machine
end

