-- ==== Sys2Proof/Machine/Vex128.lean ====
section
/-! DEFINITION. Vex128: the four VEX.128 forms (43_vex128.md). -/

namespace Sys2Proof.Machine

/-- The step that the VEX.128 forms share (60_exceptions.md R211, 43_vex128.md R174): the checks, both sources, IH128 at the
width of the element, the write of all 256 bits, the upper 128 zero, the advance of pc. -/
def stepVex128 (el : Elem) (e : VexEnc) (dst src1 : VecReg) (src2 : RM 4) (s : State) : Result :=
  s.finish (
    match usable .vex128 el s (s.operandOf (vexLen e src2) src2) with
    | .error x => .error x
    | .ok _ =>
      match s.srcXmmVex (vexLen e src2) src2 with
      | .error x => .error x
      | .ok b => .ok ((s.writeXmmVex dst (ih128 el.width (s.readXmm src1) b)).advance (vexLen e src2)))

/-- VPUNPCKHBW xmm1, xmm2, xmm3/m128 (R170). -/
def execVpunpckhbwXmm (e : VexEnc) (dst src1 : VecReg) (src2 : RM 4) (s : State) : Result :=
  stepVex128 .byte e dst src1 src2 s

/-- VPUNPCKHWD xmm1, xmm2, xmm3/m128 (R171). -/
def execVpunpckhwdXmm (e : VexEnc) (dst src1 : VecReg) (src2 : RM 4) (s : State) : Result :=
  stepVex128 .word e dst src1 src2 s

/-- VPUNPCKHDQ xmm1, xmm2, xmm3/m128 (R172). -/
def execVpunpckhdqXmm (e : VexEnc) (dst src1 : VecReg) (src2 : RM 4) (s : State) : Result :=
  stepVex128 .dword e dst src1 src2 s

/-- VPUNPCKHQDQ xmm1, xmm2, xmm3/m128 (R173). -/
def execVpunpckhqdqXmm (e : VexEnc) (dst src1 : VecReg) (src2 : RM 4) (s : State) : Result :=
  stepVex128 .qword e dst src1 src2 s

end Sys2Proof.Machine
end

