-- ==== Sys2Proof/Machine/Vex256.lean ====
section
/-! DEFINITION. Vex256: the four VEX.256 forms (44_vex256.md). -/

namespace Sys2Proof.Machine

/-- The step that the VEX.256 forms share (60_exceptions.md R211, 44_vex256.md R184): the checks, both sources, IH256 at the
width of the element, the write of all 256 bits, the advance of pc. -/
def stepVex256 (el : Elem) (e : VexEnc) (dst src1 : VecReg) (src2 : RM 4) (s : State) : Result :=
  s.finish (
    match usable .vex256 el s (s.operandOf (vexLen e src2) src2) with
    | .error x => .error x
    | .ok _ =>
      match s.srcYmm (vexLen e src2) src2 with
      | .error x => .error x
      | .ok b => .ok ((s.writeYmm dst (ih256 el.width (s.readYmm src1) b)).advance (vexLen e src2)))

/-- VPUNPCKHBW ymm1, ymm2, ymm3/m256 (R180). -/
def execVpunpckhbwYmm (e : VexEnc) (dst src1 : VecReg) (src2 : RM 4) (s : State) : Result :=
  stepVex256 .byte e dst src1 src2 s

/-- VPUNPCKHWD ymm1, ymm2, ymm3/m256 (R181). -/
def execVpunpckhwdYmm (e : VexEnc) (dst src1 : VecReg) (src2 : RM 4) (s : State) : Result :=
  stepVex256 .word e dst src1 src2 s

/-- VPUNPCKHDQ ymm1, ymm2, ymm3/m256 (R182). -/
def execVpunpckhdqYmm (e : VexEnc) (dst src1 : VecReg) (src2 : RM 4) (s : State) : Result :=
  stepVex256 .dword e dst src1 src2 s

/-- VPUNPCKHQDQ ymm1, ymm2, ymm3/m256 (R183). -/
def execVpunpckhqdqYmm (e : VexEnc) (dst src1 : VecReg) (src2 : RM 4) (s : State) : Result :=
  stepVex256 .qword e dst src1 src2 s

end Sys2Proof.Machine
end

