-- ==== Sys2Proof/Machine/Dispatch.lean ====
section
/-! DEFINITION. Dispatch: the meaning of every instruction, one arm per constructor of `Instr`. -/

namespace Sys2Proof.Machine

def exec (i : Instr) (s : State) : Host.Outcome State Fault Refusal :=
  match i with
  | .punpckhbwMm e dst src => Sys2Proof.Machine.execPunpckhbwMm e dst src s
  | .punpckhwdMm e dst src => Sys2Proof.Machine.execPunpckhwdMm e dst src s
  | .punpckhdqMm e dst src => Sys2Proof.Machine.execPunpckhdqMm e dst src s
  | .punpckhbwXmm e dst src => Sys2Proof.Machine.execPunpckhbwXmm e dst src s
  | .punpckhwdXmm e dst src => Sys2Proof.Machine.execPunpckhwdXmm e dst src s
  | .punpckhdqXmm e dst src => Sys2Proof.Machine.execPunpckhdqXmm e dst src s
  | .punpckhqdqXmm e dst src => Sys2Proof.Machine.execPunpckhqdqXmm e dst src s
  | .vpunpckhbwXmm e dst src1 src2 => Sys2Proof.Machine.execVpunpckhbwXmm e dst src1 src2 s
  | .vpunpckhwdXmm e dst src1 src2 => Sys2Proof.Machine.execVpunpckhwdXmm e dst src1 src2 s
  | .vpunpckhdqXmm e dst src1 src2 => Sys2Proof.Machine.execVpunpckhdqXmm e dst src1 src2 s
  | .vpunpckhqdqXmm e dst src1 src2 => Sys2Proof.Machine.execVpunpckhqdqXmm e dst src1 src2 s
  | .vpunpckhbwYmm e dst src1 src2 => Sys2Proof.Machine.execVpunpckhbwYmm e dst src1 src2 s
  | .vpunpckhwdYmm e dst src1 src2 => Sys2Proof.Machine.execVpunpckhwdYmm e dst src1 src2 s
  | .vpunpckhdqYmm e dst src1 src2 => Sys2Proof.Machine.execVpunpckhdqYmm e dst src1 src2 s
  | .vpunpckhqdqYmm e dst src1 src2 => Sys2Proof.Machine.execVpunpckhqdqYmm e dst src1 src2 s

end Sys2Proof.Machine
end

