-- ==== Sys2Proof/Machine/Fetch.lean ====
section
/-! DEFINITION. Fetch: the instruction bytes at the program counter, and what the step answers where they are no instruction.
The spec leaves fetch faults outside the model (92_eei_decisions.md D1): a byte that cannot be fetched ends the byte
sequence, and an instruction that needs it is refused. -/

namespace Sys2Proof.Machine

/-- Whether the code segment lets the program counter address a byte: its limit outside 64-bit mode, a canonical address
in it (log 7). -/
def State.codeInSegment (s : State) (k : Nat) : Bool :=
  if s.codeMode = .m64 then canonical (s.rip.toNat + k)
  else decide (s.rip.toNat + k ≤ s.segs.cs.limit.toNat)

/-- Byte `k` of the instruction at the program counter, where it can be fetched (30_encoding.md R80; log 7). -/
def State.fetchByte (s : State) (k : Nat) : Option Byte :=
  if s.rip.toNat + k < s.pcSpan ∧ s.codeInSegment k = true ∧
      (s.opMode = .real ∨ s.isProtected (s.linear .cs s.rip k) = false) ∧ s.isDevice (s.linear .cs s.rip k) = false then
    s.byteAt (s.linear .cs s.rip k)
  else none

/-- The bytes from number `k` on, at most `n`, up to the first that cannot be fetched. -/
def State.fetchFrom (s : State) (k : Nat) : Nat → List Byte
  | 0 => []
  | n + 1 =>
    match s.fetchByte k with
    | some b => b :: s.fetchFrom (k + 1) n
    | none => []

/-- The bytes at the program counter, as many as the longest instruction has (R104). -/
def State.fetchBytes (s : State) : List Byte := s.fetchFrom 0 Config.maxInstrLen

/-- The refusal where the fetched bytes end inside an instruction: past the top of the address space (10_state.md R26), or a byte
that cannot be fetched. -/
def State.truncatedRefusal (s : State) : Refusal :=
  if s.rip.toNat + s.fetchBytes.length < s.pcSpan then .fetchUnreadable else .runsPastTop

/-- The outcome of a step whose bytes are no instruction (30_encoding.md R102, R105). -/
def State.decodeOutcome (s : State) : DecodeStop → Result
  | .truncated => .refused s.truncatedRefusal
  | .repeatedPrefix => .refused .repeatedPrefix
  | .notOnPage => .refused .notOnPage
  | .needs66 => .refused .opcode6DWithout66
  | .vexBOutside64 => .refused .vexBOutside64
  | .invalidOpcode => s.raise .ud
  | .tooLong => s.raise .gp

/-- The state with bytes placed where the next step fetches. -/
def State.placeCode (s : State) (bs : List Byte) : State :=
  { s with mem := memSetBytes s.pcSpan s.mem (s.segBase .cs + s.rip.toNat) bs }

/-- The state in 64-bit mode (and so with CR0.PE = 1) with bytes placed where its next step fetches (log 12). -/
def State.withFetchBytes (s : State) (bs : List Byte) : State :=
  { s with codeMode := .m64, cr0 := s.cr0 ||| 1#64 }.placeCode bs

end Sys2Proof.Machine
end

