-- ==== Sys2Proof/Machine/Step.lean ====
section
/-! DEFINITION. Step: fetch at the program counter, decode, execute (30_encoding.md R80, R102; 60_exceptions.md R211). -/

namespace Sys2Proof.Machine

/-- One step: the instruction whose bytes stand at the program counter. `exec` advances the program counter itself. -/
def step (s : State) : Host.Outcome State Fault Refusal :=
  match decode s.codeMode s.fetchBytes with
  | .ok (i, _) => exec i s
  | .error d => s.decodeOutcome d

/-- The state with an instruction of a table word stored where the next step fetches it. The table's words are instructions
in 64-bit mode (R98), so the state is put into it, PE with it (log 12). -/
def State.withFetchWord (s : State) (nbits w : Nat) : State := s.withFetchBytes (tableBytes nbits w)

end Sys2Proof.Machine
end

