-- ==== Sys2Proof/Machine/PageText.lean ====
section
/-! DEFINITION. PageText: the assignments of the page's Operation section, transcribed line by line: the eight functions of
40_interleave_functions.md R131 to R138 and the seven in-place blocks of 41_mmx_64bit.md and 42_legacy_sse_128bit.md. The
meanings use the general law (R139, R140); claims say that the two agree. -/

namespace Sys2Proof.Machine

/-- Where a line of the page reads: `src1` is SRC1 of a function and DEST of an in-place block, `src2` is SRC2 and SRC. -/
inductive LineSrc
  | src1 | src2
deriving DecidableEq, Repr

/-- One assignment `DEST[hi:lo] <- src[shi:slo]` of the page (00_scope.md R7). -/
structure Line where
  hi : Nat
  lo : Nat
  src : LineSrc
  shi : Nat
  slo : Nat
deriving DecidableEq, Repr

/-- `v` with the slice of `w` bits from `lo` on replaced by the low `w` bits of `x` (00_scope.md R7, R8). -/
def setSlice {n : Nat} (v : BitVec n) (lo w : Nat) (x : BitVec n) : BitVec n :=
  (v &&& ~~~((BitVec.allOnes w).setWidth n <<< lo)) ||| ((x.setWidth w).setWidth n <<< lo)

/-- The operand a line reads. -/
def Line.operand {n : Nat} (l : Line) (a b : BitVec n) : BitVec n :=
  match l.src with
  | .src1 => a
  | .src2 => b

/-- The effect of one line on DEST, reading `a` for SRC1 and `b` for SRC2. -/
def runLine {n : Nat} (a b dest : BitVec n) (l : Line) : BitVec n :=
  setSlice dest l.lo (l.hi - l.lo + 1) (l.operand a b >>> l.slo)

/-- A function of the page: its lines executed one after the other, the arguments read throughout (R131 to R138). -/
def runFunction {n : Nat} (a b : BitVec n) (dest : BitVec n) (ls : List Line) : BitVec n :=
  ls.foldl (runLine a b) dest

/-- An in-place block of the page executed line by line, each line reading DEST as the lines before left it, with SRC another
register (00_scope.md R8, R141). -/
def runInPlace {n : Nat} (src : BitVec n) (dest : BitVec n) (ls : List Line) : BitVec n :=
  ls.foldl (fun d l => runLine d src d l) dest

/-- An in-place block executed line by line with SRC the same register as DEST (R141). -/
def runInPlaceSame {n : Nat} (dest : BitVec n) (ls : List Line) : BitVec n :=
  ls.foldl (fun d l => runLine d d d l) dest

/-- INTERLEAVE_HIGH_BYTES (R131). -/
def interleaveHighBytes : List Line :=
  [⟨7, 0, .src1, 71, 64⟩, ⟨15, 8, .src2, 71, 64⟩, ⟨23, 16, .src1, 79, 72⟩, ⟨31, 24, .src2, 79, 72⟩,
    ⟨39, 32, .src1, 87, 80⟩, ⟨47, 40, .src2, 87, 80⟩, ⟨55, 48, .src1, 95, 88⟩, ⟨63, 56, .src2, 95, 88⟩,
    ⟨71, 64, .src1, 103, 96⟩, ⟨79, 72, .src2, 103, 96⟩, ⟨87, 80, .src1, 111, 104⟩, ⟨95, 88, .src2, 111, 104⟩,
    ⟨103, 96, .src1, 119, 112⟩, ⟨111, 104, .src2, 119, 112⟩, ⟨119, 112, .src1, 127, 120⟩, ⟨127, 120, .src2, 127, 120⟩]

/-- INTERLEAVE_HIGH_BYTES_256b (R132): the lines of INTERLEAVE_HIGH_BYTES and as many more. -/
def interleaveHighBytes256b : List Line :=
  interleaveHighBytes ++
  [⟨135, 128, .src1, 199, 192⟩, ⟨143, 136, .src2, 199, 192⟩, ⟨151, 144, .src1, 207, 200⟩, ⟨159, 152, .src2, 207, 200⟩,
    ⟨167, 160, .src1, 215, 208⟩, ⟨175, 168, .src2, 215, 208⟩, ⟨183, 176, .src1, 223, 216⟩,
    ⟨191, 184, .src2, 223, 216⟩, ⟨199, 192, .src1, 231, 224⟩, ⟨207, 200, .src2, 231, 224⟩,
    ⟨215, 208, .src1, 239, 232⟩, ⟨223, 216, .src2, 239, 232⟩, ⟨231, 224, .src1, 247, 240⟩,
    ⟨239, 232, .src2, 247, 240⟩, ⟨247, 240, .src1, 255, 248⟩, ⟨255, 248, .src2, 255, 248⟩]

/-- INTERLEAVE_HIGH_WORDS (R133). -/
def interleaveHighWords : List Line :=
  [⟨15, 0, .src1, 79, 64⟩, ⟨31, 16, .src2, 79, 64⟩, ⟨47, 32, .src1, 95, 80⟩, ⟨63, 48, .src2, 95, 80⟩,
    ⟨79, 64, .src1, 111, 96⟩, ⟨95, 80, .src2, 111, 96⟩, ⟨111, 96, .src1, 127, 112⟩, ⟨127, 112, .src2, 127, 112⟩]

/-- INTERLEAVE_HIGH_WORDS_256b (R134): the lines of INTERLEAVE_HIGH_WORDS and as many more. -/
def interleaveHighWords256b : List Line :=
  interleaveHighWords ++
  [⟨143, 128, .src1, 207, 192⟩, ⟨159, 144, .src2, 207, 192⟩, ⟨175, 160, .src1, 223, 208⟩, ⟨191, 176, .src2, 223, 208⟩,
    ⟨207, 192, .src1, 239, 224⟩, ⟨223, 208, .src2, 239, 224⟩, ⟨239, 224, .src1, 255, 240⟩,
    ⟨255, 240, .src2, 255, 240⟩]

/-- INTERLEAVE_HIGH_DWORDS (R135). -/
def interleaveHighDwords : List Line :=
  [⟨31, 0, .src1, 95, 64⟩, ⟨63, 32, .src2, 95, 64⟩, ⟨95, 64, .src1, 127, 96⟩, ⟨127, 96, .src2, 127, 96⟩]

/-- INTERLEAVE_HIGH_DWORDS_256b (R136): the lines of INTERLEAVE_HIGH_DWORDS and as many more. -/
def interleaveHighDwords256b : List Line :=
  interleaveHighDwords ++
  [⟨159, 128, .src1, 223, 192⟩, ⟨191, 160, .src2, 223, 192⟩, ⟨223, 192, .src1, 255, 224⟩, ⟨255, 224, .src2, 255, 224⟩]

/-- INTERLEAVE_HIGH_QWORDS (R137). -/
def interleaveHighQwords : List Line :=
  [⟨63, 0, .src1, 127, 64⟩, ⟨127, 64, .src2, 127, 64⟩]

/-- INTERLEAVE_HIGH_QWORDS_256b (R138): the lines of INTERLEAVE_HIGH_QWORDS and as many more. -/
def interleaveHighQwords256b : List Line :=
  interleaveHighQwords ++
  [⟨191, 128, .src1, 255, 192⟩, ⟨255, 192, .src2, 255, 192⟩]

/-- The block "PUNPCKHBW instruction with 64-bit operands" (R150). -/
def punpckhbw64Lines : List Line :=
  [⟨7, 0, .src1, 39, 32⟩, ⟨15, 8, .src2, 39, 32⟩, ⟨23, 16, .src1, 47, 40⟩, ⟨31, 24, .src2, 47, 40⟩,
    ⟨39, 32, .src1, 55, 48⟩, ⟨47, 40, .src2, 55, 48⟩, ⟨55, 48, .src1, 63, 56⟩, ⟨63, 56, .src2, 63, 56⟩]

/-- The block "PUNPCKHWD instruction with 64-bit operands" (R151). -/
def punpckhwd64Lines : List Line :=
  [⟨15, 0, .src1, 47, 32⟩, ⟨31, 16, .src2, 47, 32⟩, ⟨47, 32, .src1, 63, 48⟩, ⟨63, 48, .src2, 63, 48⟩]

/-- The block "PUNPCKHDQ instruction with 64-bit operands" (R152). -/
def punpckhdq64Lines : List Line :=
  [⟨31, 0, .src1, 63, 32⟩, ⟨63, 32, .src2, 63, 32⟩]

/-- The block "PUNPCKHBW instruction with 128-bit operands" (R160). -/
def punpckhbw128Lines : List Line :=
  [⟨7, 0, .src1, 71, 64⟩, ⟨15, 8, .src2, 71, 64⟩, ⟨23, 16, .src1, 79, 72⟩, ⟨31, 24, .src2, 79, 72⟩,
    ⟨39, 32, .src1, 87, 80⟩, ⟨47, 40, .src2, 87, 80⟩, ⟨55, 48, .src1, 95, 88⟩, ⟨63, 56, .src2, 95, 88⟩,
    ⟨71, 64, .src1, 103, 96⟩, ⟨79, 72, .src2, 103, 96⟩, ⟨87, 80, .src1, 111, 104⟩, ⟨95, 88, .src2, 111, 104⟩,
    ⟨103, 96, .src1, 119, 112⟩, ⟨111, 104, .src2, 119, 112⟩, ⟨119, 112, .src1, 127, 120⟩, ⟨127, 120, .src2, 127, 120⟩]

/-- The block "PUNPCKHWD instruction with 128-bit operands" (R161). -/
def punpckhwd128Lines : List Line :=
  [⟨15, 0, .src1, 79, 64⟩, ⟨31, 16, .src2, 79, 64⟩, ⟨47, 32, .src1, 95, 80⟩, ⟨63, 48, .src2, 95, 80⟩,
    ⟨79, 64, .src1, 111, 96⟩, ⟨95, 80, .src2, 111, 96⟩, ⟨111, 96, .src1, 127, 112⟩, ⟨127, 112, .src2, 127, 112⟩]

/-- The block "PUNPCKHDQ instruction with 128-bit operands" (R162). -/
def punpckhdq128Lines : List Line :=
  [⟨31, 0, .src1, 95, 64⟩, ⟨63, 32, .src2, 95, 64⟩, ⟨95, 64, .src1, 127, 96⟩, ⟨127, 96, .src2, 127, 96⟩]

/-- The block "PUNPCKHQDQ instruction" (R163). -/
def punpckhqdq128Lines : List Line :=
  [⟨63, 0, .src1, 127, 64⟩, ⟨127, 64, .src2, 127, 64⟩]

end Sys2Proof.Machine
end

