-- ==== Sys2Proof/Safety.lean ====
section
/-! DEFINITION. Safety: the words that claims use: which instruction a step runs, when a class is usable, what a completed form
leaves alone, and the invariant of the machine. -/

namespace Sys2Proof.Machine

/-- The step at `s` fetches and decodes the instruction `i`. -/
def Runs (s : State) (i : Instr) : Prop := ∃ rest, decode s.codeMode s.fetchBytes = .ok (i, rest)

/-- The control state: everything that no form of the page writes beside memory, the vector registers, the x87 fields and the
program counter (10_state.md R25, R28, R29, R30, R34). -/
def SameControl (s t : State) : Prop :=
  t.gpr = s.gpr ∧ t.rflags = s.rflags ∧ t.mxcsr = s.mxcsr ∧ t.cr0 = s.cr0 ∧ t.cr2 = s.cr2 ∧ t.cr4 = s.cr4 ∧ t.xcr0 = s.xcr0 ∧
    t.cpl = s.cpl ∧ t.codeMode = s.codeMode ∧ t.segs = s.segs ∧ t.features = s.features ∧ t.params = s.params ∧
    t.regions = s.regions

/-- Every byte of memory reads as before, and is there or not there as before (20_memory.md R31, R50). -/
def SameMemory (s t : State) : Prop := ∀ a : Nat, t.byteAt a = s.byteAt a

/-- The MMX registers and the x87 fields are as before. -/
def SameMmx (s t : State) : Prop :=
  t.mm = s.mm ∧ t.x87Hi = s.x87Hi ∧ t.x87Status = s.x87Status ∧ t.x87Tag = s.x87Tag

/-- Every YMM register but `d` is as before. -/
def SameYmmBut (s t : State) (d : VecReg) : Prop := ∀ r : VecReg, r ≠ d → t.readYmm r = s.readYmm r

/-- The program counter has advanced by `len`, where that is an address (10_state.md R26). -/
def Advanced (s t : State) (len : Nat) : Prop :=
  s.rip.toNat + len < s.pcSpan → t.rip.toNat = s.rip.toNat + len

/-- What a completed MMX form that writes `v` to `mm[d]` leaves (10_state.md R24, R32, R34). -/
def MmxDone (s t : State) (d : MmReg) (v : BitVec 64) (len : Nat) : Prop :=
  t.readMm d = v ∧ (∀ r : MmReg, r ≠ d → t.readMm r = s.readMm r) ∧
    t.x87Tos = 0 ∧ (∀ k : Nat, ¬ (11 ≤ k ∧ k ≤ 13) → t.x87Status.getLsbD k = s.x87Status.getLsbD k) ∧ t.x87Tag = 0 ∧
    t.readX87Hi d = 0xFFFF#16 ∧ (∀ r : MmReg, r ≠ d → t.readX87Hi r = s.readX87Hi r) ∧
    t.ymm = s.ymm ∧ SameControl s t ∧ SameMemory s t ∧ Advanced s t len

/-- What a completed 128- or 256-bit form that writes `v` to `ymm[d]` leaves (10_state.md R24, R34). -/
def YmmDone (s t : State) (d : VecReg) (v : BitVec 256) (len : Nat) : Prop :=
  t.readYmm d = v ∧ SameYmmBut s t d ∧ SameMmx s t ∧ SameControl s t ∧ SameMemory s t ∧ Advanced s t len

/-- The MMX forms are usable by the default Type4Check: no row of `Usable(MMX)` raises (60_exceptions.md R208). -/
def MmxUsable (s : State) : Prop := s.features.mmx = true ∧ s.em = false ∧ s.ts = false ∧ s.x87Es = false

/-- The legacy SSE forms are usable by the default Type4Check (R208). -/
def SseEnabled (s : State) : Prop := s.features.sse2 = true ∧ s.em = false ∧ s.osfxsr = true ∧ s.ts = false

/-- The VEX.128 forms are usable by the default Type4Check (R208). -/
def Vex128Enabled (s : State) : Prop :=
  s.vexModeOk = true ∧ s.features.avx = true ∧ s.osxsave = true ∧ s.avxState = true ∧ s.ts = false

/-- The VEX.256 forms are usable by the default Type4Check (R203, R208). -/
def Vex256Enabled (s : State) : Prop :=
  s.vexModeOk = true ∧ s.features.avx2 = true ∧ s.osxsave = true ∧ s.avxState = true ∧ s.ts = false

/-- The forms of a class are usable by the default Type4Check (R208). -/
def ClassEnabled (c : Cls) (s : State) : Prop :=
  match c with
  | .mmx => MmxUsable s
  | .sse => SseEnabled s
  | .vex128 => Vex128Enabled s
  | .vex256 => Vex256Enabled s

/-- The form of class `c` and element `el` is usable with the memory operand `op`, whichever function stands for Type4Check: by
R208, or where the function is free the form exists and the function raises nothing (00_scope.md R6, 60_exceptions.md R204, R205,
R207, R208; log 4). -/
def FormUsable (c : Cls) (el : Elem) (s : State) (op : Option (Seg × BitVec 64)) : Prop :=
  (s.replaced = none ∧ ClassEnabled c s) ∨
    ∃ k, s.replaced = some k ∧ s.formThere c = true ∧ otherType4Check k c el s op = none

/-- The memory operand of an instruction, if it has one: its segment and effective address. -/
def operandAt (i : Instr) (s : State) : Option (Seg × BitVec 64) := i.mem?.map fun o => (o.seg, s.effAddr i.len o)

/-- The alignment check of the MMX forms fails (20_memory.md R58); a free Type4Check stands in its place (log 4). -/
def AcFails (s : State) (c : Cls) (addr : BitVec 64) : Prop :=
  c = .mmx ∧ s.replaced = none ∧ s.acEnabled = true ∧ addr.toNat % 8 ≠ 0

/-- The checks of the memory operand `o` of an instruction of class `c` and length `len` pass (20_memory.md R52): the segment, the
end of the effective-address space, the boundary, every byte that is fetched present and readable, no #AC, no device space. -/
def OperandOk (s : State) (c : Cls) (o : MemOp) (len : Nat) : Prop :=
  s.segPass o.seg (s.effAddr len o) (operandSize c) = true ∧
    (s.effAddr len o).toNat + operandSize c ≤ addrSpan o.asz ∧
    (s.effAddr len o).toNat % boundary s c = 0 ∧
    (∀ k : Nat, s.fetchStart (operandSize c) ≤ k → k < operandSize c →
      s.byteStop (s.linear o.seg (s.effAddr len o) k) = none) ∧
    ¬ AcFails s c (s.effAddr len o) ∧
    (∀ k : Nat, k < operandSize c → s.isDevice (s.linear o.seg (s.effAddr len o) k) = false)

/-- The byte of a memory operand at offset `k`; a byte that FETCH_HALF leaves unread and memory does not list counts as 0. -/
def operandByte (s : State) (o : MemOp) (len k : Nat) : Byte :=
  (s.byteAt (s.linear o.seg (s.effAddr len o) k)).getD 0#8

/-- `v` is the value of a memory operand of `n` bytes: byte `k` of `v` is the byte at offset `k` (20_memory.md R51, R52). -/
def OperandValue (s : State) (o : MemOp) (len n : Nat) {w : Nat} (v : BitVec w) : Prop :=
  ∀ k : Nat, k < n → v.extractLsb' (8 * k) 8 = operandByte s o len k

/-! ### The results as the instruction rules write them out, `d` the first source and `v` the second -/

/-- The result of 41_mmx_64bit.md R150. -/
def highBytes64 (d v : BitVec 64) : BitVec 64 :=
  v.extractLsb' 56 8 ++ d.extractLsb' 56 8 ++ v.extractLsb' 48 8 ++ d.extractLsb' 48 8 ++
    v.extractLsb' 40 8 ++ d.extractLsb' 40 8 ++ v.extractLsb' 32 8 ++ d.extractLsb' 32 8

/-- The result of 41_mmx_64bit.md R151. -/
def highWords64 (d v : BitVec 64) : BitVec 64 :=
  v.extractLsb' 48 16 ++ d.extractLsb' 48 16 ++ v.extractLsb' 32 16 ++ d.extractLsb' 32 16

/-- The result of 41_mmx_64bit.md R152. -/
def highDwords64 (d v : BitVec 64) : BitVec 64 := v.extractLsb' 32 32 ++ d.extractLsb' 32 32

/-- The result of 42_legacy_sse_128bit.md R160. -/
def highBytes128 (d v : BitVec 128) : BitVec 128 :=
  v.extractLsb' 120 8 ++ d.extractLsb' 120 8 ++ v.extractLsb' 112 8 ++ d.extractLsb' 112 8 ++
    v.extractLsb' 104 8 ++ d.extractLsb' 104 8 ++ v.extractLsb' 96 8 ++ d.extractLsb' 96 8 ++
    v.extractLsb' 88 8 ++ d.extractLsb' 88 8 ++ v.extractLsb' 80 8 ++ d.extractLsb' 80 8 ++
    v.extractLsb' 72 8 ++ d.extractLsb' 72 8 ++ v.extractLsb' 64 8 ++ d.extractLsb' 64 8

/-- The result of 42_legacy_sse_128bit.md R161. -/
def highWords128 (d v : BitVec 128) : BitVec 128 :=
  v.extractLsb' 112 16 ++ d.extractLsb' 112 16 ++ v.extractLsb' 96 16 ++ d.extractLsb' 96 16 ++
    v.extractLsb' 80 16 ++ d.extractLsb' 80 16 ++ v.extractLsb' 64 16 ++ d.extractLsb' 64 16

/-- The result of 42_legacy_sse_128bit.md R162. -/
def highDwords128 (d v : BitVec 128) : BitVec 128 :=
  v.extractLsb' 96 32 ++ d.extractLsb' 96 32 ++ v.extractLsb' 64 32 ++ d.extractLsb' 64 32

/-- The result of 42_legacy_sse_128bit.md R163. -/
def highQwords128 (d v : BitVec 128) : BitVec 128 := v.extractLsb' 64 64 ++ d.extractLsb' 64 64

/-- A 128-bit operation on each lane (44_vex256.md R184 item 2). -/
def onLanes (f : BitVec 128 → BitVec 128 → BitVec 128) (d v : BitVec 256) : BitVec 256 :=
  f (laneHigh d) (laneHigh v) ++ f (laneLow d) (laneLow v)

/-! ### Destinations -/

/-- The MMX register an instruction writes, if it writes one (10_state.md R24). -/
def mmDst : Instr → Option MmReg
  | .punpckhbwMm _ d _ => some d
  | .punpckhwdMm _ d _ => some d
  | .punpckhdqMm _ d _ => some d
  | .punpckhbwXmm _ _ _ => none
  | .punpckhwdXmm _ _ _ => none
  | .punpckhdqXmm _ _ _ => none
  | .punpckhqdqXmm _ _ _ => none
  | .vpunpckhbwXmm _ _ _ _ => none
  | .vpunpckhwdXmm _ _ _ _ => none
  | .vpunpckhdqXmm _ _ _ _ => none
  | .vpunpckhqdqXmm _ _ _ _ => none
  | .vpunpckhbwYmm _ _ _ _ => none
  | .vpunpckhwdYmm _ _ _ _ => none
  | .vpunpckhdqYmm _ _ _ _ => none
  | .vpunpckhqdqYmm _ _ _ _ => none

/-- The YMM register an instruction writes, if it writes one (10_state.md R24). -/
def ymmDst : Instr → Option VecReg
  | .punpckhbwMm _ _ _ => none
  | .punpckhwdMm _ _ _ => none
  | .punpckhdqMm _ _ _ => none
  | .punpckhbwXmm _ d _ => some d
  | .punpckhwdXmm _ d _ => some d
  | .punpckhdqXmm _ d _ => some d
  | .punpckhqdqXmm _ d _ => some d
  | .vpunpckhbwXmm _ d _ _ => some d
  | .vpunpckhwdXmm _ d _ _ => some d
  | .vpunpckhdqXmm _ d _ _ => some d
  | .vpunpckhqdqXmm _ d _ _ => some d
  | .vpunpckhbwYmm _ d _ _ => some d
  | .vpunpckhwdYmm _ d _ _ => some d
  | .vpunpckhdqYmm _ d _ _ => some d
  | .vpunpckhqdqYmm _ d _ _ => some d

/-- The XMM and YMM registers an instruction names (10_state.md R23). -/
def vecRegs : Instr → List VecReg
  | .punpckhbwMm _ _ _ => []
  | .punpckhwdMm _ _ _ => []
  | .punpckhdqMm _ _ _ => []
  | .punpckhbwXmm _ d r => d :: rmRegs r
  | .punpckhwdXmm _ d r => d :: rmRegs r
  | .punpckhdqXmm _ d r => d :: rmRegs r
  | .punpckhqdqXmm _ d r => d :: rmRegs r
  | .vpunpckhbwXmm _ d a r => d :: a :: rmRegs r
  | .vpunpckhwdXmm _ d a r => d :: a :: rmRegs r
  | .vpunpckhdqXmm _ d a r => d :: a :: rmRegs r
  | .vpunpckhqdqXmm _ d a r => d :: a :: rmRegs r
  | .vpunpckhbwYmm _ d a r => d :: a :: rmRegs r
  | .vpunpckhwdYmm _ d a r => d :: a :: rmRegs r
  | .vpunpckhdqYmm _ d a r => d :: a :: rmRegs r
  | .vpunpckhqdqYmm _ d a r => d :: a :: rmRegs r
where
  /-- The register of an r/m operand that is one. -/
  rmRegs : RM 4 → List VecReg
    | .reg r => [r]
    | .mem _ => []

/-- The prefix bytes and the REX byte before an opcode or a VEX prefix (30_encoding.md R80). -/
def prefixBytes (ps : List Pfx) (rx : Option Rex) : List Byte := ps.map Pfx.toByte ++ (rx.map Rex.toByte).toList

/-- The value in 16, 32 or 64 bits of a displacement: none is 0, a shorter one is sign-extended (30_encoding.md R103). -/
def dispIn (w : Nat) : Disp → BitVec w
  | .absent => 0#w
  | .d8 v => v.signExtend w
  | .d16 v => v.signExtend w
  | .d32 v => v.signExtend w

/-- What `f` makes of the state that an outcome carries. -/
def mapOutcome (f : State → State) : Result → Result
  | .next t => .next (f t)
  | .fault (.raised x s) => .fault (.raised x (f s))
  | .fault (.noMemory a s) => .fault (.noMemory a (f s))
  | .refused r => .refused r

/-- An encoding without its ignored REX byte (30_encoding.md R92). -/
def dropRex (e : LegacyEnc) : LegacyEnc := { e with pfx := e.pfx.filter fun p => !p.isRex }

/-- An instruction without its ignored REX byte: only the legacy shape can have one (30_encoding.md R92). -/
def dropIgnoredRex : Instr → Instr
  | .punpckhbwMm e d r => .punpckhbwMm (dropRex e) d r
  | .punpckhwdMm e d r => .punpckhwdMm (dropRex e) d r
  | .punpckhdqMm e d r => .punpckhdqMm (dropRex e) d r
  | .punpckhbwXmm e d r => .punpckhbwXmm (dropRex e) d r
  | .punpckhwdXmm e d r => .punpckhwdXmm (dropRex e) d r
  | .punpckhdqXmm e d r => .punpckhdqXmm (dropRex e) d r
  | .punpckhqdqXmm e d r => .punpckhqdqXmm (dropRex e) d r
  | .vpunpckhbwXmm e d a r => .vpunpckhbwXmm e d a r
  | .vpunpckhwdXmm e d a r => .vpunpckhwdXmm e d a r
  | .vpunpckhdqXmm e d a r => .vpunpckhdqXmm e d a r
  | .vpunpckhqdqXmm e d a r => .vpunpckhqdqXmm e d a r
  | .vpunpckhbwYmm e d a r => .vpunpckhbwYmm e d a r
  | .vpunpckhwdYmm e d a r => .vpunpckhwdYmm e d a r
  | .vpunpckhdqYmm e d a r => .vpunpckhdqYmm e d a r
  | .vpunpckhqdqYmm e d a r => .vpunpckhqdqYmm e d a r

/-- A run of prefixes that a code mode takes for one and that repeats none: REX bytes in 64-bit mode only (R91, R92). -/
def PrefixRun (m : CodeMode) (ps : List Pfx) (rx : Option Rex) : Prop :=
  repeated (ps ++ (rx.map Pfx.rex).toList) = false ∧ (m = .m64 ∨ rx = none ∧ ps.any Pfx.isRex = false)

/-- The invariant of the machine: memory in its canonical form, EIP of 32 bits outside 64-bit mode (10_state.md R26), no AVX2
without AVX (60_exceptions.md R203). -/
def Inv (s : State) : Prop :=
  memWf s.mem = true ∧ (s.codeMode ≠ .m64 → s.rip.toNat < 2 ^ 32) ∧ (s.features.avx2 = true → s.features.avx = true)

/-- A safe state: its step completes. -/
def Safe (s : State) : Prop := ∃ t, step s = .next t

end Sys2Proof.Machine
end

