-- ==== Sys2Proof/Certificates/Slice0/Obligations.lean ====
section
/-! DEFINITION. Obligations: the statements about the model, each formalising rules of spec/ or naming the log
entry of the model's choice it states. They are grouped: step and reset,
decoding, addresses and segments, the fifteen forms, faults, frames, the laws of the interleave. -/

section

open Sys2Proof Sys2Proof.Machine

/-! ### Step and reset -/

/-- A step runs the instruction that its bytes decode to, and adds nothing to it (30_encoding.md R102, 60_exceptions.md R211). -/
def Obligations.StepRunsDecodedInstruction : Prop :=
  ∀ (s : State) (i : Instr), i.wf s.codeMode = true → Runs s i → step s = exec i s

/-- What a step answers where its bytes are no instruction (30_encoding.md R102, R105; the two refusals of the last clause are the
model's choice, logs 6 and 7). -/
def Obligations.StepWithoutInstruction : Prop :=
  ∀ (s : State) (d : DecodeStop), decode s.codeMode s.fetchBytes = .error d →
    (d = .invalidOpcode → step s = .fault (.raised .ud s)) ∧
    (d = .repeatedPrefix → step s = .refused .repeatedPrefix) ∧
    (d = .notOnPage → step s = .refused .notOnPage) ∧
    (d = .needs66 → step s = .refused .opcode6DWithout66) ∧
    (d = .vexBOutside64 → step s = .refused .vexBOutside64) ∧
    (d = .truncated → s.rip.toNat + s.fetchBytes.length < s.pcSpan → step s = .refused .fetchUnreadable) ∧
    (d = .truncated → s.pcSpan ≤ s.rip.toNat + s.fetchBytes.length → step s = .refused .runsPastTop)

/-- A step whose first instruction byte memory does not list is refused (the model's choice, log 7). -/
def Obligations.UnlistedCodeRefused : Prop :=
  ∀ s : State, s.rip.toNat < s.pcSpan → s.byteAt (s.linear .cs s.rip 0) = none → step s = .refused .fetchUnreadable

/-- The state after reset has the values of the right-hand column of 10_state.md R35, which the spec marks as known from outside
the source. Two clauses are not that column's: that bits 79:64 of the x87 registers are 0 is DEDUCED from its +0.0, and that no byte
of memory is listed, which the column calls not defined, is a DESIGN CHOICE of the model (log 9). -/
def Obligations.ResetValues : Prop :=
  (∀ r : MmReg, State.reset.readMm r = 0 ∧ State.reset.readX87Hi r = 0) ∧
  State.reset.x87Tag = 0xFFFF#16 ∧ State.reset.x87Tos = 0 ∧
  (∀ r : VecReg, State.reset.readYmm r = 0) ∧
  State.reset.rip = 0xFFF0#64 ∧ State.reset.segs.cs.base = 0xFFFF0000#64 ∧
  State.reset.linear .cs State.reset.rip 0 = 0xFFFFFFF0 ∧ State.reset.opMode = .real ∧
  State.reset.rflags = 2#64 ∧ State.reset.cr0 = 0x60000010#64 ∧ State.reset.cr4 = 0#64 ∧ State.reset.xcr0 = 1#64 ∧
  ∀ a : Nat, State.reset.byteAt a = none

/-- What can execute after reset (70_reset_and_hazards.md R241): the MMX forms can, the others raise #UD. It rests on the feature
flags of State.reset, the model's choice (log 10). -/
def Obligations.ResetUsability : Prop :=
  (∀ i : Instr, i.cls = .mmx → i.mem? = none → ∃ t, exec i State.reset = .next t) ∧
  (∀ i : Instr, i.cls ≠ .mmx → exec i State.reset = .fault (.raised .ud State.reset))

/-- The invariant holds after reset. -/
def Obligations.ResetHasInvariant : Prop := Inv State.reset

/-- Every step keeps the invariant. -/
def Obligations.StepKeepsInvariant : Prop :=
  ∀ s t : State, Inv s → step s = .next t → Inv t

/-- A table word placed where the step fetches is the instruction that the step runs (the interface of the model, log 12). -/
def Obligations.PlacedWordRuns : Prop :=
  ∀ (s : State) (nbits w : Nat) (i : Instr), s.rip.toNat + 15 ≤ 2 ^ 47 → s.regions = [] →
    decodeTableWord nbits w = some i → step (s.withFetchWord nbits w) = exec i (s.withFetchWord nbits w)

/-! ### Decoding -/

/-- Words of 30_encoding.md R112 decode to the instructions its table gives. -/
def Obligations.SpecWordsDecode : Prop :=
  decode .m64 [0x0F, 0x68, 0xC1] = .ok (.punpckhbwMm ⟨[], none⟩ 0 (.reg 1), []) ∧
  decode .m64 [0x0F, 0x6A, 0x18] = .ok (.punpckhdqMm ⟨[], none⟩ 3 (.mem ⟨.ds, .a64, .base 0 .absent⟩), []) ∧
  decode .m64 [0x66, 0x47, 0x0F, 0x6D, 0x7C, 0xAC, 0x10] =
    .ok (.punpckhqdqXmm ⟨[.opSize], some ⟨false, true, true, true⟩⟩ 15
      (.mem ⟨.ds, .a64, .sib 12 13 2 (.d8 0x10)⟩), []) ∧
  decode .m32 [0x67, 0x0F, 0x69, 0x08] =
    .ok (.punpckhwdMm ⟨[.addrSize], none⟩ 1 (.mem ⟨.ds, .a16, .regs16 0 .absent⟩), []) ∧
  decode .m64 [0xC4, 0x41, 0x31, 0x69, 0xC2] =
    .ok (.vpunpckhwdXmm ⟨[], .three false true false true true⟩ 8 9 (.reg 10), []) ∧
  decode .m64 [0xC5, 0xED, 0x68, 0x0D, 0x00, 0x01, 0x00, 0x00] =
    .ok (.vpunpckhbwYmm ⟨[], .two false false⟩ 1 2 (.mem ⟨.ds, .a64, .ripRel 0x100⟩), [])

/-- Decoding what the encoder writes for a well-formed instruction gives it back, with every operand at every value. -/
def Obligations.DecodeOfEncode : Prop :=
  ∀ (m : CodeMode) (i : Instr) (rest : List Byte), i.wf m = true → decode m (encode i ++ rest) = .ok (i, rest)

/-- What the decoder accepts is well formed and is the encoding of what it answers: no byte is dropped or added. -/
def Obligations.EncodeOfDecode : Prop :=
  ∀ (m : CodeMode) (bs rest : List Byte) (i : Instr), decode m bs = .ok (i, rest) →
    i.wf m = true ∧ bs = encode i ++ rest

/-- Lengths (30_encoding.md R104): an admitted encoding has 3 to 12 bytes, at least 4 outside the MMX forms, and the length of the
decoded record is the number of bytes consumed; the limit of 15 bytes is never reached. -/
def Obligations.DecodedLengths : Prop :=
  (∀ (m : CodeMode) (bs rest : List Byte) (i : Instr), decode m bs = .ok (i, rest) →
    3 ≤ i.len ∧ i.len ≤ 12 ∧ (i.cls ≠ .mmx → 4 ≤ i.len) ∧ bs.length = i.len + rest.length) ∧
  ∀ (m : CodeMode) (bs : List Byte), decode m bs ≠ .error .tooLong

/-- A 66, F2, F3 or F0 prefix or a REX prefix before a VEX prefix is an invalid opcode (30_encoding.md R100); so is an ignored REX
byte there (read from R100, log 21). -/
def Obligations.PrefixBeforeVexInvalid : Prop :=
  ∀ (m : CodeMode) (ps : List Pfx) (rx : Option Rex) (c b1 : Byte) (rest : List Byte),
    PrefixRun m ps rx → (c = 0xC4#8 ∨ c = 0xC5#8) → (m = .m64 ∨ fieldHi b1 = 3#2) →
    (Pfx.opSize ∈ ps ∨ Pfx.repne ∈ ps ∨ Pfx.rep ∈ ps ∨ Pfx.lock ∈ ps ∨ rx.isSome = true ∨ ps.any Pfx.isRex = true) →
    decode m (prefixBytes ps rx ++ c :: b1 :: rest) = .error .invalidOpcode

/-- A LOCK prefix on a legacy form is an invalid opcode (60_exceptions.md R206 item 1, 30_encoding.md R102). -/
def Obligations.LockPrefixInvalid : Prop :=
  ∀ (m : CodeMode) (ps : List Pfx) (rx : Option Rex) (el : Elem) (rest : List Byte),
    PrefixRun m ps rx → Pfx.lock ∈ ps → Pfx.repne ∉ ps → Pfx.rep ∉ ps →
    decode m (prefixBytes ps rx ++ 0x0F#8 :: el.toOp :: rest) = .error .invalidOpcode

/-- The neighbour encodings of 30_encoding.md R105 are refused: 0F 6D without 66; F2 or F3 before a legacy form; a 62H byte in the
place of the opcode; a VEX prefix with another pp or mmmmm; and a three-byte VEX prefix with B' = 0 outside 64-bit mode (R98). -/
def Obligations.NeighbourEncodingsRefused : Prop :=
  ∀ (m : CodeMode) (ps : List Pfx) (rx : Option Rex) (rest : List Byte), PrefixRun m ps rx →
    (Pfx.opSize ∉ ps → Pfx.lock ∉ ps → Pfx.repne ∉ ps → Pfx.rep ∉ ps →
      decode m (prefixBytes ps rx ++ 0x0F#8 :: 0x6D#8 :: rest) = .error .needs66) ∧
    (∀ el : Elem, Pfx.repne ∈ ps ∨ Pfx.rep ∈ ps →
      decode m (prefixBytes ps rx ++ 0x0F#8 :: el.toOp :: rest) = .error .notOnPage) ∧
    (decode m (prefixBytes ps rx ++ 0x62#8 :: rest) = .error .notOnPage) ∧
    (rx = none → ps.any Pfx.isRex = false → Pfx.opSize ∉ ps → Pfx.lock ∉ ps → Pfx.repne ∉ ps → Pfx.rep ∉ ps →
      ∀ b1 b2 op : Byte, m = .m64 ∨ fieldHi b1 = 3#2 →
        (b1.extractLsb' 0 2 ≠ 1#2 → decode m (prefixBytes ps rx ++ 0xC5#8 :: b1 :: op :: rest) = .error .notOnPage) ∧
        (b1.extractLsb' 0 5 ≠ 1#5 ∨ b2.extractLsb' 0 2 ≠ 1#2 →
          decode m (prefixBytes ps rx ++ 0xC4#8 :: b1 :: b2 :: op :: rest) = .error .notOnPage) ∧
        (m ≠ .m64 → b1.extractLsb' 0 5 = 1#5 → b2.extractLsb' 0 2 = 1#2 → b1.getLsbD 5 = false →
          ∀ el : Elem,
            decode m (prefixBytes ps rx ++ 0xC4#8 :: b1 :: b2 :: el.toOp :: rest) = .error .vexBOutside64))

/-- A repeated prefix and a second segment override are refused, whatever follows (30_encoding.md R91); so is a second REX byte
(read from R91 and R104, log 21). -/
def Obligations.RepeatedPrefixRefused : Prop :=
  ∀ (m : CodeMode) (ps qs us : List Pfx) (p q : Pfx) (rest : List Byte),
    (m = .m64 ∨ (ps ++ p :: (qs ++ q :: us)).any Pfx.isRex = false) →
    (p = q ∨ (∃ g h : Seg, p = .seg g ∧ q = .seg h) ∨ ∃ g h : Rex, p = .rex g ∧ q = .rex h) →
    decode m (prefixBytes (ps ++ p :: (qs ++ q :: us)) none ++ rest) = .error .repeatedPrefix

/-- A REX byte followed by another prefix is ignored (30_encoding.md R92): the bytes decode to what they decode to without it, but
for the place in the encoding that remembers it. -/
def Obligations.RexBeforePrefixIgnored : Prop :=
  ∀ (ps qs : List Pfx) (r : Rex) (el : Elem) (tail : List Byte),
    qs ≠ [] → ps.any Pfx.isRex = false → qs.any Pfx.isRex = false →
    decode .m64 (prefixBytes (ps ++ qs) none ++ 0x0F#8 :: el.toOp :: tail) =
      (decode .m64 (prefixBytes ps (some r) ++ prefixBytes qs none ++ 0x0F#8 :: el.toOp :: tail)).map
        (fun d => (dropIgnoredRex d.1, d.2))

/-- The register fields of the legacy shape in 64-bit mode (30_encoding.md R86, R92, R93): REX.R and REX.B are the fourth bits of
an XMM register number, and no bit of an MMX register number. -/
def Obligations.LegacyRegisterFields : Prop :=
  ∀ (w r x b : Bool) (el : Elem) (reg rm : BitVec 3) (rest : List Byte),
    decode .m64 (0x66#8 :: (4#4 ++ BitVec.ofBool w ++ BitVec.ofBool r ++ BitVec.ofBool x ++ BitVec.ofBool b) ::
        0x0F#8 :: el.toOp :: (3#2 ++ reg ++ rm) :: rest) =
      .ok (sseInstr ⟨[.opSize], some ⟨w, r, x, b⟩⟩ (BitVec.ofBool r ++ reg) (.reg (BitVec.ofBool b ++ rm)) el, rest) ∧
    ∀ i : Instr, mmxInstr ⟨[], some ⟨w, r, x, b⟩⟩ reg (.reg rm) el = some i →
      decode .m64 ((4#4 ++ BitVec.ofBool w ++ BitVec.ofBool r ++ BitVec.ofBool x ++ BitVec.ofBool b) ::
        0x0F#8 :: el.toOp :: (3#2 ++ reg ++ rm) :: rest) = .ok (i, rest)

/-- The fields of the two VEX prefixes (30_encoding.md R94 to R99): R, X, B and vvvv are written inverted, W is ignored, L selects
the width. Outside 64-bit mode R', X' and B' are 1, the low three bits of vvvv name the first source, and the top bit of vvvv' of the
three-byte prefix is ignored. -/
def Obligations.VexPrefixFields : Prop :=
  (∀ (w r x b l : Bool) (v : BitVec 4) (el : Elem) (reg rm : BitVec 3) (rest : List Byte),
    decode .m64 (0xC4#8 :: (BitVec.ofBool (!r) ++ BitVec.ofBool (!x) ++ BitVec.ofBool (!b) ++ 1#5) ::
        (BitVec.ofBool w ++ ~~~v ++ BitVec.ofBool l ++ 1#2) :: el.toOp :: (3#2 ++ reg ++ rm) :: rest) =
      .ok (vexInstr ⟨[], .three w r x b (v.getLsbD 3)⟩ (BitVec.ofBool r ++ reg) v (.reg (BitVec.ofBool b ++ rm)) l el,
        rest) ∧
    decode .m64 (0xC5#8 :: (BitVec.ofBool (!r) ++ ~~~v ++ BitVec.ofBool l ++ 1#2) :: el.toOp ::
        (3#2 ++ reg ++ rm) :: rest) =
      .ok (vexInstr ⟨[], .two r (v.getLsbD 3)⟩ (BitVec.ofBool r ++ reg) v (.reg (0#1 ++ rm)) l el, rest)) ∧
  ∀ (m : CodeMode) (w t l : Bool) (v : BitVec 3) (el : Elem) (reg rm : BitVec 3) (rest : List Byte), m ≠ .m64 →
    decode m (0xC4#8 :: (7#3 ++ 1#5) :: (BitVec.ofBool w ++ BitVec.ofBool t ++ ~~~v ++ BitVec.ofBool l ++ 1#2) ::
        el.toOp :: (3#2 ++ reg ++ rm) :: rest) =
      .ok (vexInstr ⟨[], .three w false false false (!t)⟩ (0#1 ++ reg) (0#1 ++ v) (.reg (0#1 ++ rm)) l el, rest) ∧
    decode m (0xC5#8 :: (3#2 ++ ~~~v ++ BitVec.ofBool l ++ 1#2) :: el.toOp :: (3#2 ++ reg ++ rm) :: rest) =
      .ok (vexInstr ⟨[], .two false false⟩ (0#1 ++ reg) (0#1 ++ v) (.reg (0#1 ++ rm)) l el, rest)

/-- Outside 64-bit mode an instruction names no XMM or YMM register above 7 (10_state.md R23, 30_encoding.md R98). -/
def Obligations.LowRegistersOutside64 : Prop :=
  ∀ (m : CodeMode) (bs rest : List Byte) (i : Instr), m ≠ .m64 → decode m bs = .ok (i, rest) →
    ∀ r ∈ vecRegs i, r.toNat < 8

/-! ### Addresses and segments -/

/-- The table of 16-bit addressing (30_encoding.md R89): sums of 16-bit registers and displacements modulo 2^16. -/
def Obligations.EffectiveAddress16 : Prop :=
  ∀ (s : State) (len : Nat) (g : Seg) (d : Disp) (v : BitVec 16),
    s.effAddr len ⟨g, .a16, .regs16 0 d⟩ =
      ((s.readGpr 3).setWidth 16 + (s.readGpr 6).setWidth 16 + dispIn 16 d).setWidth 64 ∧
    s.effAddr len ⟨g, .a16, .regs16 1 d⟩ =
      ((s.readGpr 3).setWidth 16 + (s.readGpr 7).setWidth 16 + dispIn 16 d).setWidth 64 ∧
    s.effAddr len ⟨g, .a16, .regs16 2 d⟩ =
      ((s.readGpr 5).setWidth 16 + (s.readGpr 6).setWidth 16 + dispIn 16 d).setWidth 64 ∧
    s.effAddr len ⟨g, .a16, .regs16 3 d⟩ =
      ((s.readGpr 5).setWidth 16 + (s.readGpr 7).setWidth 16 + dispIn 16 d).setWidth 64 ∧
    s.effAddr len ⟨g, .a16, .regs16 4 d⟩ = ((s.readGpr 6).setWidth 16 + dispIn 16 d).setWidth 64 ∧
    s.effAddr len ⟨g, .a16, .regs16 5 d⟩ = ((s.readGpr 7).setWidth 16 + dispIn 16 d).setWidth 64 ∧
    s.effAddr len ⟨g, .a16, .regs16 6 d⟩ = ((s.readGpr 5).setWidth 16 + dispIn 16 d).setWidth 64 ∧
    s.effAddr len ⟨g, .a16, .regs16 7 d⟩ = ((s.readGpr 3).setWidth 16 + dispIn 16 d).setWidth 64 ∧
    s.effAddr len ⟨g, .a16, .abs16 v⟩ = v.setWidth 64

/-- 32-bit addressing (30_encoding.md R87, R88, R90): sums modulo 2^32, zero-extended; index number 4 is no index. -/
def Obligations.EffectiveAddress32 : Prop :=
  ∀ (s : State) (len : Nat) (g : Seg) (b i : GenReg) (sc : BitVec 2) (d : Disp) (v : BitVec 32),
    s.effAddr len ⟨g, .a32, .base b d⟩ = ((s.readGpr b).setWidth 32 + dispIn 32 d).setWidth 64 ∧
    (i ≠ 4#4 → s.effAddr len ⟨g, .a32, .sib b i sc d⟩ =
      ((s.readGpr b).setWidth 32 + (s.readGpr i).setWidth 32 * BitVec.ofNat 32 (2 ^ sc.toNat) + dispIn 32 d).setWidth 64) ∧
    s.effAddr len ⟨g, .a32, .sib b 4 sc d⟩ = ((s.readGpr b).setWidth 32 + dispIn 32 d).setWidth 64 ∧
    (i ≠ 4#4 → s.effAddr len ⟨g, .a32, .sibNoBase i sc v⟩ =
      ((s.readGpr i).setWidth 32 * BitVec.ofNat 32 (2 ^ sc.toNat) + v).setWidth 64) ∧
    s.effAddr len ⟨g, .a32, .sibNoBase 4 sc v⟩ = v.setWidth 64 ∧
    s.effAddr len ⟨g, .a32, .abs32 v⟩ = v.setWidth 64 ∧
    s.effAddr len ⟨g, .a32, .ripRel v⟩ = (s.rip.setWidth 32 + BitVec.ofNat 32 len + v).setWidth 64

/-- 64-bit addressing (30_encoding.md R90): sums modulo 2^64, displacements sign-extended, RIP the address of the next
instruction. -/
def Obligations.EffectiveAddress64 : Prop :=
  ∀ (s : State) (len : Nat) (g : Seg) (b i : GenReg) (sc : BitVec 2) (d : Disp) (v : BitVec 32),
    s.effAddr len ⟨g, .a64, .base b d⟩ = s.readGpr b + dispIn 64 d ∧
    (i ≠ 4#4 → s.effAddr len ⟨g, .a64, .sib b i sc d⟩ =
      s.readGpr b + s.readGpr i * BitVec.ofNat 64 (2 ^ sc.toNat) + dispIn 64 d) ∧
    s.effAddr len ⟨g, .a64, .sib b 4 sc d⟩ = s.readGpr b + dispIn 64 d ∧
    (i ≠ 4#4 → s.effAddr len ⟨g, .a64, .sibNoBase i sc v⟩ =
      s.readGpr i * BitVec.ofNat 64 (2 ^ sc.toNat) + v.signExtend 64) ∧
    s.effAddr len ⟨g, .a64, .sibNoBase 4 sc v⟩ = v.signExtend 64 ∧
    s.effAddr len ⟨g, .a64, .ripRel v⟩ = s.rip + BitVec.ofNat 64 len + v.signExtend 64

/-- Which segment and address size a memory operand has (30_encoding.md R87 to R91): an override that counts names the segment;
without one, and in 64-bit mode whatever ES, CS, SS or DS override is there, it is SS for a base of number 4 or 5 and DS for the
other 32- and 64-bit forms, and with 16-bit addressing that of the last column of R89; in 64-bit mode the address size is 64, or 32
with a 67 prefix, outside it a 67 prefix switches between 16 and 32. -/
def Obligations.SegmentChoice : Prop :=
  ∀ (m : CodeMode) (ps : List Pfx) (rx : Option Rex) (b : Byte) (tail rest : List Byte) (i : Instr) (o : MemOp),
    prefixOf m b = none → decode m (prefixBytes ps rx ++ b :: tail) = .ok (i, rest) → i.mem? = some o →
    (∀ g : Seg, Pfx.seg g ∈ ps → m ≠ .m64 ∨ g = .fs ∨ g = .gs → o.seg = g) ∧
    ((∀ g : Seg, Pfx.seg g ∈ ps → m = .m64 ∧ g ≠ .fs ∧ g ≠ .gs) →
      (o.asz ≠ .a16 →
        (o.seg = .ss ∨ o.seg = .ds) ∧
        (o.seg = .ss ↔ ∃ r : GenReg, (r = 4#4 ∨ r = 5#4) ∧
          ((∃ d, o.form = .base r d) ∨ ∃ x sc d, o.form = .sib r x sc d))) ∧
      (∀ rm d, o.form = .regs16 rm d → o.seg = if rm = 2#3 ∨ rm = 3#3 ∨ rm = 6#3 then .ss else .ds) ∧
      (∀ v, o.form = .abs16 v → o.seg = .ds)) ∧
    (o.asz = .a16 ↔ (∃ rm d, o.form = .regs16 rm d) ∨ ∃ v, o.form = .abs16 v) ∧
    (m = .m64 → o.seg ≠ .es ∧ o.seg ≠ .cs ∧ (o.asz = .a32 ↔ Pfx.addrSize ∈ ps) ∧ (o.asz = .a64 ↔ Pfx.addrSize ∉ ps)) ∧
    (m = .m32 → (o.asz = .a16 ↔ Pfx.addrSize ∈ ps) ∧ (o.asz = .a32 ↔ Pfx.addrSize ∉ ps)) ∧
    (m = .m16 → (o.asz = .a32 ↔ Pfx.addrSize ∈ ps) ∧ (o.asz = .a16 ↔ Pfx.addrSize ∉ ps))

/-- The segment check of 20_memory.md R53 by mode (that V86 mode checks like real-address mode, and what a null selector is, are
read from R205 and R207 and the family, log 13). -/
def Obligations.SegmentCheck : Prop :=
  ∀ (s : State) (g : Seg) (addr : BitVec 64) (n : Nat), 0 < n →
    (s.opMode = .real ∨ s.opMode = .v86 →
      (s.segOk g addr n = true ↔ ∀ k : Nat, k < n → addr.toNat + k ≤ 0xFFFF)) ∧
    (s.opMode = .prot →
      (s.segOk g addr n = true ↔
        (∃ j : Nat, 2 ≤ j ∧ j < 16 ∧ (s.segReg g).selector.getLsbD j = true) ∧ (s.segReg g).readable = true ∧
          ∀ k : Nat, k < n → addr.toNat + k ≤ (s.segReg g).limit.toNat)) ∧
    (s.opMode = .long →
      (s.segOk g addr n = true ↔
        ∀ k : Nat, k < n →
          (BitVec.ofNat 64 (s.linear g addr k)).extractLsb' 47 17 = 0#17 ∨
            (BitVec.ofNat 64 (s.linear g addr k)).extractLsb' 47 17 = BitVec.allOnes 17) ∧
      ∀ k : Nat, s.linear g addr k =
        ((if g = .fs ∨ g = .gs then (s.segReg g).base.toNat else 0) + addr.toNat + k) % 2 ^ 64)

/-! ### The fifteen forms: completion, result and frame -/

/-- The three MMX forms on two registers (41_mmx_64bit.md R150 to R152): where they are usable they complete, with the result
each rule writes out, the x87 side effects of 10_state.md R32 and nothing else changed. As for the statements on the other forms,
whichever function stands for Type4Check (log 4). -/
def Obligations.MmxRegisterForms : Prop :=
  ∀ (s : State) (e : LegacyEnc) (dst src : MmReg),
    (FormUsable .mmx .byte s none →
      ∃ t, exec (.punpckhbwMm e dst (.reg src)) s = .next t ∧
      MmxDone s t dst (highBytes64 (s.readMm dst) (s.readMm src)) (Instr.punpckhbwMm e dst (.reg src)).len) ∧
    (FormUsable .mmx .word s none →
      ∃ t, exec (.punpckhwdMm e dst (.reg src)) s = .next t ∧
      MmxDone s t dst (highWords64 (s.readMm dst) (s.readMm src)) (Instr.punpckhwdMm e dst (.reg src)).len) ∧
    (FormUsable .mmx .dword s none →
      ∃ t, exec (.punpckhdqMm e dst (.reg src)) s = .next t ∧
      MmxDone s t dst (highDwords64 (s.readMm dst) (s.readMm src)) (Instr.punpckhdqMm e dst (.reg src)).len)

/-- The three MMX forms on a register and 8 bytes of memory (41_mmx_64bit.md R150 to R152, 20_memory.md R54, R58). -/
def Obligations.MmxMemoryForms : Prop :=
  ∀ (s : State) (e : LegacyEnc) (dst : MmReg) (o : MemOp) (len : Nat),
    len = (Instr.punpckhbwMm e dst (.mem o)).len → OperandOk s .mmx o len →
    ∃ v : BitVec 64, OperandValue s o len 8 v ∧
      (FormUsable .mmx .byte s (some (o.seg, s.effAddr len o)) →
        ∃ t, exec (.punpckhbwMm e dst (.mem o)) s = .next t ∧
        MmxDone s t dst (highBytes64 (s.readMm dst) v) len) ∧
      (FormUsable .mmx .word s (some (o.seg, s.effAddr len o)) →
        ∃ t, exec (.punpckhwdMm e dst (.mem o)) s = .next t ∧
        MmxDone s t dst (highWords64 (s.readMm dst) v) len) ∧
      (FormUsable .mmx .dword s (some (o.seg, s.effAddr len o)) →
        ∃ t, exec (.punpckhdqMm e dst (.mem o)) s = .next t ∧
        MmxDone s t dst (highDwords64 (s.readMm dst) v) len)

/-- The four legacy SSE forms on two registers (42_legacy_sse_128bit.md R160 to R164): bits 255:128 of the destination stay. -/
def Obligations.SseRegisterForms : Prop :=
  ∀ (s : State) (e : LegacyEnc) (dst src : VecReg),
    (FormUsable .sse .byte s none →
      ∃ t, exec (.punpckhbwXmm e dst (.reg src)) s = .next t ∧
      YmmDone s t dst (laneHigh (s.readYmm dst) ++ highBytes128 (s.readXmm dst) (s.readXmm src))
        (Instr.punpckhbwXmm e dst (.reg src)).len) ∧
    (FormUsable .sse .word s none →
      ∃ t, exec (.punpckhwdXmm e dst (.reg src)) s = .next t ∧
      YmmDone s t dst (laneHigh (s.readYmm dst) ++ highWords128 (s.readXmm dst) (s.readXmm src))
        (Instr.punpckhwdXmm e dst (.reg src)).len) ∧
    (FormUsable .sse .dword s none →
      ∃ t, exec (.punpckhdqXmm e dst (.reg src)) s = .next t ∧
      YmmDone s t dst (laneHigh (s.readYmm dst) ++ highDwords128 (s.readXmm dst) (s.readXmm src))
        (Instr.punpckhdqXmm e dst (.reg src)).len) ∧
    (FormUsable .sse .qword s none →
      ∃ t, exec (.punpckhqdqXmm e dst (.reg src)) s = .next t ∧
      YmmDone s t dst (laneHigh (s.readYmm dst) ++ highQwords128 (s.readXmm dst) (s.readXmm src))
        (Instr.punpckhqdqXmm e dst (.reg src)).len)

/-- The four legacy SSE forms on a register and 16 bytes of memory, on a 16-byte boundary by the default Type4Check
(42_legacy_sse_128bit.md R160 to R164, 20_memory.md R55, R56). -/
def Obligations.SseMemoryForms : Prop :=
  ∀ (s : State) (e : LegacyEnc) (dst : VecReg) (o : MemOp) (len : Nat),
    len = (Instr.punpckhbwXmm e dst (.mem o)).len → OperandOk s .sse o len →
    ∃ v : BitVec 128, OperandValue s o len 16 v ∧
      (FormUsable .sse .byte s (some (o.seg, s.effAddr len o)) →
        ∃ t, exec (.punpckhbwXmm e dst (.mem o)) s = .next t ∧
        YmmDone s t dst (laneHigh (s.readYmm dst) ++ highBytes128 (s.readXmm dst) v) len) ∧
      (FormUsable .sse .word s (some (o.seg, s.effAddr len o)) →
        ∃ t, exec (.punpckhwdXmm e dst (.mem o)) s = .next t ∧
        YmmDone s t dst (laneHigh (s.readYmm dst) ++ highWords128 (s.readXmm dst) v) len) ∧
      (FormUsable .sse .dword s (some (o.seg, s.effAddr len o)) →
        ∃ t, exec (.punpckhdqXmm e dst (.mem o)) s = .next t ∧
        YmmDone s t dst (laneHigh (s.readYmm dst) ++ highDwords128 (s.readXmm dst) v) len) ∧
      (FormUsable .sse .qword s (some (o.seg, s.effAddr len o)) →
        ∃ t, exec (.punpckhqdqXmm e dst (.mem o)) s = .next t ∧
        YmmDone s t dst (laneHigh (s.readYmm dst) ++ highQwords128 (s.readXmm dst) v) len)

/-- The four VEX.128 forms on registers (43_vex128.md R170 to R174): bits 255:128 of the destination become zero. -/
def Obligations.Vex128RegisterForms : Prop :=
  ∀ (s : State) (e : VexEnc) (dst src1 src2 : VecReg),
    (FormUsable .vex128 .byte s none →
      ∃ t, exec (.vpunpckhbwXmm e dst src1 (.reg src2)) s = .next t ∧
      YmmDone s t dst (0#128 ++ highBytes128 (s.readXmm src1) (s.readXmm src2))
        (Instr.vpunpckhbwXmm e dst src1 (.reg src2)).len) ∧
    (FormUsable .vex128 .word s none →
      ∃ t, exec (.vpunpckhwdXmm e dst src1 (.reg src2)) s = .next t ∧
      YmmDone s t dst (0#128 ++ highWords128 (s.readXmm src1) (s.readXmm src2))
        (Instr.vpunpckhwdXmm e dst src1 (.reg src2)).len) ∧
    (FormUsable .vex128 .dword s none →
      ∃ t, exec (.vpunpckhdqXmm e dst src1 (.reg src2)) s = .next t ∧
      YmmDone s t dst (0#128 ++ highDwords128 (s.readXmm src1) (s.readXmm src2))
        (Instr.vpunpckhdqXmm e dst src1 (.reg src2)).len) ∧
    (FormUsable .vex128 .qword s none →
      ∃ t, exec (.vpunpckhqdqXmm e dst src1 (.reg src2)) s = .next t ∧
      YmmDone s t dst (0#128 ++ highQwords128 (s.readXmm src1) (s.readXmm src2))
        (Instr.vpunpckhqdqXmm e dst src1 (.reg src2)).len)

/-- The four VEX.128 forms on a register and 16 bytes of memory (43_vex128.md R170 to R174, 20_memory.md R55, R57). -/
def Obligations.Vex128MemoryForms : Prop :=
  ∀ (s : State) (e : VexEnc) (dst src1 : VecReg) (o : MemOp) (len : Nat),
    len = (Instr.vpunpckhbwXmm e dst src1 (.mem o)).len → OperandOk s .vex128 o len →
    ∃ v : BitVec 128, OperandValue s o len 16 v ∧
      (FormUsable .vex128 .byte s (some (o.seg, s.effAddr len o)) →
        ∃ t, exec (.vpunpckhbwXmm e dst src1 (.mem o)) s = .next t ∧
        YmmDone s t dst (0#128 ++ highBytes128 (s.readXmm src1) v) len) ∧
      (FormUsable .vex128 .word s (some (o.seg, s.effAddr len o)) →
        ∃ t, exec (.vpunpckhwdXmm e dst src1 (.mem o)) s = .next t ∧
        YmmDone s t dst (0#128 ++ highWords128 (s.readXmm src1) v) len) ∧
      (FormUsable .vex128 .dword s (some (o.seg, s.effAddr len o)) →
        ∃ t, exec (.vpunpckhdqXmm e dst src1 (.mem o)) s = .next t ∧
        YmmDone s t dst (0#128 ++ highDwords128 (s.readXmm src1) v) len) ∧
      (FormUsable .vex128 .qword s (some (o.seg, s.effAddr len o)) →
        ∃ t, exec (.vpunpckhqdqXmm e dst src1 (.mem o)) s = .next t ∧
        YmmDone s t dst (0#128 ++ highQwords128 (s.readXmm src1) v) len)

/-- The four VEX.256 forms on registers (44_vex256.md R180 to R184): the 128-bit result on each lane. -/
def Obligations.Vex256RegisterForms : Prop :=
  ∀ (s : State) (e : VexEnc) (dst src1 src2 : VecReg),
    (FormUsable .vex256 .byte s none →
      ∃ t, exec (.vpunpckhbwYmm e dst src1 (.reg src2)) s = .next t ∧
      YmmDone s t dst (onLanes highBytes128 (s.readYmm src1) (s.readYmm src2))
        (Instr.vpunpckhbwYmm e dst src1 (.reg src2)).len) ∧
    (FormUsable .vex256 .word s none →
      ∃ t, exec (.vpunpckhwdYmm e dst src1 (.reg src2)) s = .next t ∧
      YmmDone s t dst (onLanes highWords128 (s.readYmm src1) (s.readYmm src2))
        (Instr.vpunpckhwdYmm e dst src1 (.reg src2)).len) ∧
    (FormUsable .vex256 .dword s none →
      ∃ t, exec (.vpunpckhdqYmm e dst src1 (.reg src2)) s = .next t ∧
      YmmDone s t dst (onLanes highDwords128 (s.readYmm src1) (s.readYmm src2))
        (Instr.vpunpckhdqYmm e dst src1 (.reg src2)).len) ∧
    (FormUsable .vex256 .qword s none →
      ∃ t, exec (.vpunpckhqdqYmm e dst src1 (.reg src2)) s = .next t ∧
      YmmDone s t dst (onLanes highQwords128 (s.readYmm src1) (s.readYmm src2))
        (Instr.vpunpckhqdqYmm e dst src1 (.reg src2)).len)

/-- The four VEX.256 forms on a register and 32 bytes of memory (44_vex256.md R180 to R184, 20_memory.md R57, R59). -/
def Obligations.Vex256MemoryForms : Prop :=
  ∀ (s : State) (e : VexEnc) (dst src1 : VecReg) (o : MemOp) (len : Nat),
    len = (Instr.vpunpckhbwYmm e dst src1 (.mem o)).len → OperandOk s .vex256 o len →
    ∃ v : BitVec 256, OperandValue s o len 32 v ∧
      (FormUsable .vex256 .byte s (some (o.seg, s.effAddr len o)) →
        ∃ t, exec (.vpunpckhbwYmm e dst src1 (.mem o)) s = .next t ∧
        YmmDone s t dst (onLanes highBytes128 (s.readYmm src1) v) len) ∧
      (FormUsable .vex256 .word s (some (o.seg, s.effAddr len o)) →
        ∃ t, exec (.vpunpckhwdYmm e dst src1 (.mem o)) s = .next t ∧
        YmmDone s t dst (onLanes highWords128 (s.readYmm src1) v) len) ∧
      (FormUsable .vex256 .dword s (some (o.seg, s.effAddr len o)) →
        ∃ t, exec (.vpunpckhdqYmm e dst src1 (.mem o)) s = .next t ∧
        YmmDone s t dst (onLanes highDwords128 (s.readYmm src1) v) len) ∧
      (FormUsable .vex256 .qword s (some (o.seg, s.effAddr len o)) →
        ∃ t, exec (.vpunpckhqdqYmm e dst src1 (.mem o)) s = .next t ∧
        YmmDone s t dst (onLanes highQwords128 (s.readYmm src1) v) len)

/-! ### Faults -/

/-- A form whose CPUID feature flag is 0 raises #UD (60_exceptions.md R204). -/
def Obligations.FeatureAbsentInvalid : Prop :=
  ∀ (s : State) (i : Instr),
    (i.cls = .mmx → s.features.mmx = false → exec i s = .fault (.raised .ud s)) ∧
    (i.cls = .sse → s.features.sse2 = false → exec i s = .fault (.raised .ud s)) ∧
    (i.cls = .vex128 → s.features.avx = false → exec i s = .fault (.raised .ud s)) ∧
    (i.cls = .vex256 → s.features.avx2 = false → exec i s = .fault (.raised .ud s))

/-- The register-independent checks in their order, and that they raise nothing where they pass (60_exceptions.md R207, R208). The
order is the spec's decision D27, and the checks are those of the default Type4Check, which State.reset has by the model's choice
(log 4). -/
def Obligations.UsableOrder : Prop :=
  ∀ (s : State) (i : Instr),
    (s.replaced = none →
      (i.cls = .mmx →
        (s.features.mmx = false ∨ s.em = true → exec i s = .fault (.raised .ud s)) ∧
        (s.features.mmx = true → s.em = false → s.ts = true → exec i s = .fault (.raised .nm s)) ∧
        (s.features.mmx = true → s.em = false → s.ts = false → s.x87Es = true → exec i s = .fault (.raised .mf s))) ∧
      (i.cls = .sse →
        (s.features.sse2 = false ∨ s.em = true ∨ s.osfxsr = false → exec i s = .fault (.raised .ud s)) ∧
        (s.features.sse2 = true → s.em = false → s.osfxsr = true → s.ts = true → exec i s = .fault (.raised .nm s))) ∧
      (i.cls = .vex128 →
        (s.vexModeOk = false ∨ s.features.avx = false ∨ s.osxsave = false ∨ s.avxState = false →
          exec i s = .fault (.raised .ud s)) ∧
        (s.vexModeOk = true → s.features.avx = true → s.osxsave = true → s.avxState = true → s.ts = true →
          exec i s = .fault (.raised .nm s))) ∧
      (i.cls = .vex256 →
        (s.vexModeOk = false ∨ s.features.avx2 = false ∨ s.osxsave = false ∨ s.avxState = false →
          exec i s = .fault (.raised .ud s)) ∧
        (s.vexModeOk = true → s.features.avx2 = true → s.osxsave = true → s.avxState = true → s.ts = true →
          exec i s = .fault (.raised .nm s)))) ∧
    (FormUsable i.cls i.elem s (operandAt i s) →
      ∀ f : Fault, exec i s = .fault f → f.exc? ≠ some .ud ∧ f.exc? ≠ some .nm ∧ f.exc? ≠ some .mf)

/-- A free function in the place of Type4Check decides for every form, the MMX forms among them (00_scope.md R6, 60_exceptions.md
R204, R205, R206 item 3, R207): what it raises is the outcome. Where it raises nothing a form without a memory operand completes, and
one with it raises a page fault, or #GP(0) where VEX_ALIGN_ENFORCED, a parameter of its own, asks for a boundary (20_memory.md R57),
and nothing else. That the function stands for the rows of the tables and leaves translation, the refusals and that parameter in
force is the model's choice (log 4). -/
def Obligations.ReplacedType4Check : Prop :=
  ∀ (s : State) (i : Instr) (k : Nat), s.params.type4 = .other k →
    (s.formThere i.cls = false → exec i s = .fault (.raised .ud s)) ∧
    (s.formThere i.cls = true →
      match otherType4Check k i.cls i.elem s (operandAt i s) with
      | some x => exec i s = .fault (.raised x s)
      | none =>
        (i.mem? = none → ∃ t, exec i s = .next t) ∧
          ∀ x t, exec i s = .fault (.raised x t) →
            (∃ c a, x = .pf c a) ∨
              (x = .gp ∧ s.params.vexAlignEnforced = true ∧ (i.cls = .vex128 ∨ i.cls = .vex256) ∧
                ∃ o, i.mem? = some o ∧ (s.effAddr i.len o).toNat % operandSize i.cls ≠ 0))

/-- The checks of a memory operand in their order (20_memory.md R52, 60_exceptions.md R209, R210): segment, the refusal of an
operand past the end of the effective-address space, the #GP(0) boundary, after translation #AC(0), the refusal of device space.
The places of the two refusals are the model's choice (log 14), and so are what the fault of the segment check is in
virtual-8086 and real-address mode and what a null selector is (log 13). -/
def Obligations.MemoryFaultOrder : Prop :=
  ∀ (s : State) (i : Instr) (o : MemOp) (a : BitVec 64) (n : Nat),
    i.mem? = some o → a = s.effAddr i.len o → n = operandSize i.cls → FormUsable i.cls i.elem s (some (o.seg, a)) →
    (s.segPass o.seg a n = false →
      exec i s = .fault (.raised
        (if o.seg = .ss ∧ ¬ (s.opMode = .prot ∧ (s.segReg .ss).isNull = true) ∧
            ¬ (i.cls ≠ .mmx ∧ s.params.type4 = .table ∧ (s.opMode = .real ∨ s.opMode = .v86))
          then .ss else .gp) s)) ∧
    (s.segPass o.seg a n = true → addrSpan o.asz < a.toNat + n → exec i s = .refused .operandPastEnd) ∧
    (s.segPass o.seg a n = true → a.toNat + n ≤ addrSpan o.asz → a.toNat % boundary s i.cls ≠ 0 →
      exec i s = .fault (.raised .gp s)) ∧
    (s.segPass o.seg a n = true → a.toNat + n ≤ addrSpan o.asz → a.toNat % boundary s i.cls = 0 →
      (∀ k : Nat, s.fetchStart n ≤ k → k < n → s.byteStop (s.linear o.seg a k) = none) →
      (AcFails s i.cls a → exec i s = .fault (.raised .ac s)) ∧
      (¬ AcFails s i.cls a → (∃ k : Nat, k < n ∧ s.isDevice (s.linear o.seg a k) = true) →
        exec i s = .refused .deviceOperand))

/-- A byte of the operand that cannot be read (20_memory.md R63): #PF names the first such byte, its address and its code; in
real-address mode, which has no page fault, the model stops by a fault of its own (log 5). -/
def Obligations.PageFaultReport : Prop :=
  ∀ (s : State) (i : Instr) (o : MemOp) (a : BitVec 64) (n k : Nat),
    i.mem? = some o → a = s.effAddr i.len o → n = operandSize i.cls → FormUsable i.cls i.elem s (some (o.seg, a)) →
    s.segPass o.seg a n = true → a.toNat + n ≤ addrSpan o.asz → a.toNat % boundary s i.cls = 0 →
    s.fetchStart n ≤ k → k < n →
    (∀ j : Nat, s.fetchStart n ≤ j → j < k → s.byteStop (s.linear o.seg a j) = none) →
    (s.opMode ≠ .real → s.isPresent (s.linear o.seg a k) = false ∨ s.isProtected (s.linear o.seg a k) = true →
      ∃ code : BitVec 32, exec i s = .fault (.raised (.pf code (BitVec.ofNat 64 (s.linear o.seg a k))) s) ∧
        code.getLsbD 0 = s.isPresent (s.linear o.seg a k) ∧ code.getLsbD 1 = false ∧
        code.getLsbD 2 = (s.cpl == 3#2) ∧ code.getLsbD 4 = false) ∧
    (s.opMode = .real → s.isPresent (s.linear o.seg a k) = false →
      exec i s = .fault (.noMemory (s.linear o.seg a k) s))

/-- Which exception which form can raise, unless a free function stands for Type4Check (60_exceptions.md R201, R205, R207; log 4). -/
def Obligations.ExceptionCatalogue : Prop :=
  ∀ (s t : State) (i : Instr) (x : Exc), s.replaced = none → exec i s = .fault (.raised x t) →
    (x = .mf → i.cls = .mmx) ∧
    (x = .ac → i.cls = .mmx ∧ i.mem? ≠ none ∧ s.am = true ∧ s.acFlag = true ∧ s.cpl = 3#2 ∧ s.opMode ≠ .real) ∧
    (x = .ss → ∃ o, i.mem? = some o ∧ o.seg = .ss) ∧
    (x = .gp → i.mem? ≠ none) ∧
    (∀ (c : BitVec 32) (a : BitVec 64), x = .pf c a → i.mem? ≠ none ∧ s.opMode ≠ .real)

/-- The vector numbers and error codes of the exceptions (60_exceptions.md R201, R202); that #SS and #GP carry no error code in
real-address mode follows the last clause of 93_implementation_defined.md G22 and R205 (log 4). -/
def Obligations.ExceptionCodes : Prop :=
  (Exc.ud.vector = 6 ∧ Exc.nm.vector = 7 ∧ Exc.ss.vector = 12 ∧ Exc.gp.vector = 13 ∧ Exc.mf.vector = 16 ∧
    Exc.ac.vector = 17 ∧ ∀ c a, (Exc.pf c a).vector = 14) ∧
  ∀ s : State,
    (Fault.raised .ud s).errorCode = none ∧ (Fault.raised .nm s).errorCode = none ∧ (Fault.raised .mf s).errorCode = none ∧
    (Fault.raised .ac s).errorCode = some 0 ∧ (∀ c a, (Fault.raised (.pf c a) s).errorCode = some c) ∧
    (s.opMode ≠ .real → (Fault.raised .ss s).errorCode = some 0 ∧ (Fault.raised .gp s).errorCode = some 0) ∧
    (s.opMode = .real → (Fault.raised .ss s).errorCode = none ∧ (Fault.raised .gp s).errorCode = none)

/-- Faults are precise and write nothing, and the instruction can be executed again once the cause is removed: `repair` stands for
what a handler changes (60_exceptions.md R212, R214). That a fault is a terminal outcome with the unchanged state is decision D13 of
the spec and the model's choice of log 1. -/
def Obligations.FaultsArePrecise : Prop :=
  ∀ (s : State) (f : Fault), step s = .fault f →
    f.state = s ∧ ∀ repair : State → State, step (repair f.state) = step (repair s)

/-! ### Frames -/

/-- A form that completes changes its destination register, pc, and for an MMX form the x87 fields, and nothing else; a form that
faults changes nothing (10_state.md R34, with R22, R24, R26 and R32). The x87 clauses are those of X87_ALIAS = modelled, the model's
choice of log 3; that a fault changes nothing is decision D13 of the spec (log 1). -/
def Obligations.CompletedFrame : Prop :=
  (∀ (i : Instr) (s t : State), exec i s = .next t →
    SameControl s t ∧ t.mem = s.mem ∧ Advanced s t i.len ∧
    (∀ r : MmReg, mmDst i ≠ some r → t.readMm r = s.readMm r ∧ t.readX87Hi r = s.readX87Hi r) ∧
    (∀ r : VecReg, ymmDst i ≠ some r → t.readYmm r = s.readYmm r) ∧
    (i.cls = .sse → ∀ r : VecReg, laneHigh (t.readYmm r) = laneHigh (s.readYmm r)) ∧
    (i.cls = .vex128 → ∀ r : VecReg, ymmDst i = some r → laneHigh (t.readYmm r) = 0) ∧
    (i.cls = .mmx → t.x87Tos = 0 ∧ t.x87Tag = 0 ∧
      (∀ k : Nat, ¬ (11 ≤ k ∧ k ≤ 13) → t.x87Status.getLsbD k = s.x87Status.getLsbD k) ∧
      ∀ r : MmReg, mmDst i = some r → t.readX87Hi r = 0xFFFF#16) ∧
    (i.cls ≠ .mmx → t.x87Status = s.x87Status ∧ t.x87Tag = s.x87Tag)) ∧
  ∀ (i : Instr) (s : State) (f : Fault), exec i s = .fault f → f.state = s

/-- No run of any length changes memory, and so the program text, or the control state; outside 64-bit mode no run changes
ymm[8] to ymm[15] (10_state.md R23, R31, 20_memory.md R67). -/
def Obligations.RunKeepsProgram : Prop :=
  ∀ (n : Nat) (s t : State), Host.Core.run Sys2Proof.core n s = .next t →
    t.mem = s.mem ∧ SameControl s t ∧
      (s.codeMode ≠ .m64 → ∀ r : VecReg, 8 ≤ r.toNat → t.readYmm r = s.readYmm r)

/-- The forms are unprivileged: a form without a memory operand does at every privilege level what it does at any other, whether
it completes or faults (60_exceptions.md R217). Where a free function stands for Type4Check nothing is known of it (log 4). -/
def Obligations.PrivilegeIrrelevant : Prop :=
  ∀ (i : Instr) (s : State) (c : BitVec 2), i.mem? = none → s.replaced = none →
    exec i { s with cpl := c } = mapOutcome (fun u => { u with cpl := c }) (exec i s)

/-- CR4 and XCR0 do not matter for the MMX forms, with a register or a memory operand, whatever the outcome (60_exceptions.md
R207). Where a free function stands for Type4Check nothing is known of it (log 4). -/
def Obligations.MmxIgnoresOsEnables : Prop :=
  ∀ (i : Instr) (s : State) (a b : BitVec 64), i.cls = .mmx → s.replaced = none →
    exec i { s with cr4 := a, xcr0 := b } = mapOutcome (fun u => { u with cr4 := a, xcr0 := b }) (exec i s)

/-- The two spellings of the VEX prefix are the same instruction: outside RIP-relative addressing they differ in pc only
(30_encoding.md R96, R97; a program counter past the top of the address space is a free value, log 6). -/
def Obligations.VexSpellingsAgree : Prop :=
  ∀ (s t : State) (ps : List Pfx) (w r v3 l : Bool) (el : Elem) (dst src1 : VecReg) (src2 : RM 4),
    (∀ o : MemOp, src2 = .mem o → ∀ d : BitVec 32, o.form ≠ .ripRel d) →
    exec (vexInstr ⟨ps, .two r v3⟩ dst src1 src2 l el) s = .next t →
    exec (vexInstr ⟨ps, .three w r false false v3⟩ dst src1 src2 l el) s =
      .next { t with rip := s.nextRip ((vexInstr ⟨ps, .two r v3⟩ dst src1 src2 l el).len + 1) }

/-! ### The laws of the interleave -/

/-- The eight functions of the page, line by line, are the general law at their widths (40_interleave_functions.md R131 to R136,
R139). -/
def Obligations.PageFunctions : Prop :=
  (∀ a b dest : BitVec 128,
    runFunction a b dest interleaveHighBytes = ih128 8 a b ∧ runFunction a b dest interleaveHighWords = ih128 16 a b ∧
    runFunction a b dest interleaveHighDwords = ih128 32 a b ∧ runFunction a b dest interleaveHighQwords = ih128 64 a b) ∧
  ∀ a b dest : BitVec 256,
    runFunction a b dest interleaveHighBytes256b = ih256 8 a b ∧
    runFunction a b dest interleaveHighWords256b = ih256 16 a b ∧
    runFunction a b dest interleaveHighDwords256b = ih256 32 a b ∧
    runFunction a b dest interleaveHighQwords256b = ih256 64 a b

/-- The two quadword functions as concatenations (40_interleave_functions.md R137, R138). -/
def Obligations.QwordFunctions : Prop :=
  (∀ a b dest : BitVec 128,
    runFunction a b dest interleaveHighQwords = b.extractLsb' 64 64 ++ a.extractLsb' 64 64) ∧
  ∀ a b dest : BitVec 256,
    runFunction a b dest interleaveHighQwords256b =
      b.extractLsb' 192 64 ++ a.extractLsb' 192 64 ++ b.extractLsb' 64 64 ++ a.extractLsb' 64 64

/-- The general law (40_interleave_functions.md R139): the elements of IH128, IH256 on lanes, the dependence on the upper halves
only, and that every bit of the result is a copy of one source bit. -/
def Obligations.InterleaveLaw : Prop :=
  ∀ w : Nat, w = 8 ∨ w = 16 ∨ w = 32 ∨ w = 64 →
    (∀ (a b : BitVec 128) (i : Nat), i < 64 / w →
      elemOf w (ih128 w a b) (2 * i) = elemOf w a (64 / w + i) ∧
      elemOf w (ih128 w a b) (2 * i + 1) = elemOf w b (64 / w + i)) ∧
    (∀ a b : BitVec 256, ih256 w a b =
      ih128 w (a.extractLsb' 128 128) (b.extractLsb' 128 128) ++ ih128 w (a.extractLsb' 0 128) (b.extractLsb' 0 128)) ∧
    (∀ a a' b b' : BitVec 128, a.extractLsb' 64 64 = a'.extractLsb' 64 64 → b.extractLsb' 64 64 = b'.extractLsb' 64 64 →
      ih128 w a b = ih128 w a' b') ∧
    (∀ a a' b b' : BitVec 256, a.extractLsb' 64 64 = a'.extractLsb' 64 64 → a.extractLsb' 192 64 = a'.extractLsb' 192 64 →
      b.extractLsb' 64 64 = b'.extractLsb' 64 64 → b.extractLsb' 192 64 = b'.extractLsb' 192 64 →
      ih256 w a b = ih256 w a' b') ∧
    (∀ j : Nat, j < 128 → ∃ k : Nat, k < 128 ∧
      ((∀ a b : BitVec 128, (ih128 w a b).getLsbD j = a.getLsbD k) ∨
        ∀ a b : BitVec 128, (ih128 w a b).getLsbD j = b.getLsbD k))

/-- The 64-bit law (40_interleave_functions.md R140): the elements of IH64, its dependence on the upper halves only, and that a
128-bit operation is not two 64-bit operations. -/
def Obligations.InterleaveLaw64 : Prop :=
  ∀ w : Nat, w = 8 ∨ w = 16 ∨ w = 32 →
    (∀ (a b : BitVec 64) (i : Nat), i < 32 / w →
      elemOf w (ih64 w a b) (2 * i) = elemOf w a (32 / w + i) ∧
      elemOf w (ih64 w a b) (2 * i + 1) = elemOf w b (32 / w + i)) ∧
    (∀ a a' b b' : BitVec 64, a.extractLsb' 32 32 = a'.extractLsb' 32 32 → b.extractLsb' 32 32 = b'.extractLsb' 32 32 →
      ih64 w a b = ih64 w a' b') ∧
    ∃ a b : BitVec 128, ih128 w a b ≠
      ih64 w (a.extractLsb' 64 64) (b.extractLsb' 64 64) ++ ih64 w (a.extractLsb' 0 64) (b.extractLsb' 0 64)

/-- Sequential and simultaneous reading agree (40_interleave_functions.md R141): each in-place block executed line by line, with
another register or the same register as SRC, gives the simultaneous result. -/
def Obligations.InPlaceBlocks : Prop :=
  (∀ d v : BitVec 64,
    runInPlace v d punpckhbw64Lines = ih64 8 d v ∧ runInPlace v d punpckhwd64Lines = ih64 16 d v ∧
    runInPlace v d punpckhdq64Lines = ih64 32 d v ∧
    runInPlaceSame d punpckhbw64Lines = ih64 8 d d ∧ runInPlaceSame d punpckhwd64Lines = ih64 16 d d ∧
    runInPlaceSame d punpckhdq64Lines = ih64 32 d d) ∧
  ∀ d v : BitVec 128,
    runInPlace v d punpckhbw128Lines = ih128 8 d v ∧ runInPlace v d punpckhwd128Lines = ih128 16 d v ∧
    runInPlace v d punpckhdq128Lines = ih128 32 d v ∧ runInPlace v d punpckhqdq128Lines = ih128 64 d v ∧
    runInPlaceSame d punpckhbw128Lines = ih128 8 d d ∧ runInPlaceSame d punpckhwd128Lines = ih128 16 d d ∧
    runInPlaceSame d punpckhdq128Lines = ih128 32 d d ∧ runInPlaceSame d punpckhqdq128Lines = ih128 64 d d

/-- Zero extension (40_interleave_functions.md R145): with zeros as the second source each pair is the zero extension of a
high-order element of the first; with zeros as the first source it is the element shifted left. -/
def Obligations.ZeroExtension : Prop :=
  (∀ w : Nat, w = 8 ∨ w = 16 ∨ w = 32 ∨ w = 64 → ∀ (a : BitVec 128) (i : Nat), i < 64 / w →
    elemOf (2 * w) (ih128 w a 0) i = (elemOf w a (64 / w + i)).setWidth (2 * w) ∧
    elemOf (2 * w) (ih128 w 0 a) i = (elemOf w a (64 / w + i)).setWidth (2 * w) <<< w) ∧
  (∀ w : Nat, w = 8 ∨ w = 16 ∨ w = 32 → ∀ (a : BitVec 64) (i : Nat), i < 32 / w →
    elemOf (2 * w) (ih64 w a 0) i = (elemOf w a (32 / w + i)).setWidth (2 * w)) ∧
  ∀ a : BitVec 128, ih128 64 a 0 = (a.extractLsb' 64 64).setWidth 128

/-- The same vector as both sources (40_interleave_functions.md R146): each high-order element is duplicated. -/
def Obligations.SameVectorTwice : Prop :=
  (∀ w : Nat, w = 8 ∨ w = 16 ∨ w = 32 ∨ w = 64 → ∀ (a : BitVec 128) (i : Nat), i < 64 / w →
    elemOf w (ih128 w a a) (2 * i) = elemOf w a (64 / w + i) ∧
    elemOf w (ih128 w a a) (2 * i + 1) = elemOf w a (64 / w + i)) ∧
  (∀ w : Nat, w = 8 ∨ w = 16 ∨ w = 32 → ∀ (a : BitVec 64) (i : Nat), i < 32 / w →
    elemOf w (ih64 w a a) (2 * i) = elemOf w a (32 / w + i) ∧
    elemOf w (ih64 w a a) (2 * i + 1) = elemOf w a (32 / w + i)) ∧
  ∀ a : BitVec 128, ih128 64 a a = a.extractLsb' 64 64 ++ a.extractLsb' 64 64

end
end

