-- ==== Sys2Proof/Laws/State.lean ====
section
/-! SUPPORT. Laws.State: what each update of the state does to each field, and what the register accessors read after
each update. -/

namespace Sys2Proof.Machine

/-! ### `writeMm` -/

@[simp] theorem State.writeMm_mm (s : State) (i : MmReg) (v : BitVec 64) : (s.writeMm i v).mm = s.mm.set i.toFin v := rfl
@[simp] theorem State.writeMm_x87Hi (s : State) (i : MmReg) (v : BitVec 64) : (s.writeMm i v).x87Hi = s.x87Hi := rfl
@[simp] theorem State.writeMm_x87Status (s : State) (i : MmReg) (v : BitVec 64) : (s.writeMm i v).x87Status = s.x87Status := rfl
@[simp] theorem State.writeMm_x87Tag (s : State) (i : MmReg) (v : BitVec 64) : (s.writeMm i v).x87Tag = s.x87Tag := rfl
@[simp] theorem State.writeMm_ymm (s : State) (i : MmReg) (v : BitVec 64) : (s.writeMm i v).ymm = s.ymm := rfl
@[simp] theorem State.writeMm_mxcsr (s : State) (i : MmReg) (v : BitVec 64) : (s.writeMm i v).mxcsr = s.mxcsr := rfl
@[simp] theorem State.writeMm_gpr (s : State) (i : MmReg) (v : BitVec 64) : (s.writeMm i v).gpr = s.gpr := rfl
@[simp] theorem State.writeMm_rip (s : State) (i : MmReg) (v : BitVec 64) : (s.writeMm i v).rip = s.rip := rfl
@[simp] theorem State.writeMm_rflags (s : State) (i : MmReg) (v : BitVec 64) : (s.writeMm i v).rflags = s.rflags := rfl
@[simp] theorem State.writeMm_cr0 (s : State) (i : MmReg) (v : BitVec 64) : (s.writeMm i v).cr0 = s.cr0 := rfl
@[simp] theorem State.writeMm_cr2 (s : State) (i : MmReg) (v : BitVec 64) : (s.writeMm i v).cr2 = s.cr2 := rfl
@[simp] theorem State.writeMm_cr4 (s : State) (i : MmReg) (v : BitVec 64) : (s.writeMm i v).cr4 = s.cr4 := rfl
@[simp] theorem State.writeMm_xcr0 (s : State) (i : MmReg) (v : BitVec 64) : (s.writeMm i v).xcr0 = s.xcr0 := rfl
@[simp] theorem State.writeMm_cpl (s : State) (i : MmReg) (v : BitVec 64) : (s.writeMm i v).cpl = s.cpl := rfl
@[simp] theorem State.writeMm_codeMode (s : State) (i : MmReg) (v : BitVec 64) : (s.writeMm i v).codeMode = s.codeMode := rfl
@[simp] theorem State.writeMm_segs (s : State) (i : MmReg) (v : BitVec 64) : (s.writeMm i v).segs = s.segs := rfl
@[simp] theorem State.writeMm_features (s : State) (i : MmReg) (v : BitVec 64) : (s.writeMm i v).features = s.features := rfl
@[simp] theorem State.writeMm_params (s : State) (i : MmReg) (v : BitVec 64) : (s.writeMm i v).params = s.params := rfl
@[simp] theorem State.writeMm_mem (s : State) (i : MmReg) (v : BitVec 64) : (s.writeMm i v).mem = s.mem := rfl
@[simp] theorem State.writeMm_regions (s : State) (i : MmReg) (v : BitVec 64) : (s.writeMm i v).regions = s.regions := rfl

/-! ### `writeYmm` -/

@[simp] theorem State.writeYmm_mm (s : State) (i : VecReg) (v : BitVec 256) : (s.writeYmm i v).mm = s.mm := rfl
@[simp] theorem State.writeYmm_x87Hi (s : State) (i : VecReg) (v : BitVec 256) : (s.writeYmm i v).x87Hi = s.x87Hi := rfl
@[simp] theorem State.writeYmm_x87Status (s : State) (i : VecReg) (v : BitVec 256) : (s.writeYmm i v).x87Status = s.x87Status := rfl
@[simp] theorem State.writeYmm_x87Tag (s : State) (i : VecReg) (v : BitVec 256) : (s.writeYmm i v).x87Tag = s.x87Tag := rfl
@[simp] theorem State.writeYmm_ymm (s : State) (i : VecReg) (v : BitVec 256) : (s.writeYmm i v).ymm = s.ymm.set i.toFin v := rfl
@[simp] theorem State.writeYmm_mxcsr (s : State) (i : VecReg) (v : BitVec 256) : (s.writeYmm i v).mxcsr = s.mxcsr := rfl
@[simp] theorem State.writeYmm_gpr (s : State) (i : VecReg) (v : BitVec 256) : (s.writeYmm i v).gpr = s.gpr := rfl
@[simp] theorem State.writeYmm_rip (s : State) (i : VecReg) (v : BitVec 256) : (s.writeYmm i v).rip = s.rip := rfl
@[simp] theorem State.writeYmm_rflags (s : State) (i : VecReg) (v : BitVec 256) : (s.writeYmm i v).rflags = s.rflags := rfl
@[simp] theorem State.writeYmm_cr0 (s : State) (i : VecReg) (v : BitVec 256) : (s.writeYmm i v).cr0 = s.cr0 := rfl
@[simp] theorem State.writeYmm_cr2 (s : State) (i : VecReg) (v : BitVec 256) : (s.writeYmm i v).cr2 = s.cr2 := rfl
@[simp] theorem State.writeYmm_cr4 (s : State) (i : VecReg) (v : BitVec 256) : (s.writeYmm i v).cr4 = s.cr4 := rfl
@[simp] theorem State.writeYmm_xcr0 (s : State) (i : VecReg) (v : BitVec 256) : (s.writeYmm i v).xcr0 = s.xcr0 := rfl
@[simp] theorem State.writeYmm_cpl (s : State) (i : VecReg) (v : BitVec 256) : (s.writeYmm i v).cpl = s.cpl := rfl
@[simp] theorem State.writeYmm_codeMode (s : State) (i : VecReg) (v : BitVec 256) : (s.writeYmm i v).codeMode = s.codeMode := rfl
@[simp] theorem State.writeYmm_segs (s : State) (i : VecReg) (v : BitVec 256) : (s.writeYmm i v).segs = s.segs := rfl
@[simp] theorem State.writeYmm_features (s : State) (i : VecReg) (v : BitVec 256) : (s.writeYmm i v).features = s.features := rfl
@[simp] theorem State.writeYmm_params (s : State) (i : VecReg) (v : BitVec 256) : (s.writeYmm i v).params = s.params := rfl
@[simp] theorem State.writeYmm_mem (s : State) (i : VecReg) (v : BitVec 256) : (s.writeYmm i v).mem = s.mem := rfl
@[simp] theorem State.writeYmm_regions (s : State) (i : VecReg) (v : BitVec 256) : (s.writeYmm i v).regions = s.regions := rfl

/-! ### `mmxSideEffects` -/

@[simp] theorem State.mmxSideEffects_mm (s : State) (i : MmReg) : (s.mmxSideEffects i).mm = s.mm := rfl
@[simp] theorem State.mmxSideEffects_x87Hi (s : State) (i : MmReg) : (s.mmxSideEffects i).x87Hi = s.x87Hi.set i.toFin 0xFFFF#16 := rfl
@[simp] theorem State.mmxSideEffects_x87Status (s : State) (i : MmReg) : (s.mmxSideEffects i).x87Status = clearTos s.x87Status := rfl
@[simp] theorem State.mmxSideEffects_x87Tag (s : State) (i : MmReg) : (s.mmxSideEffects i).x87Tag = 0#16 := rfl
@[simp] theorem State.mmxSideEffects_ymm (s : State) (i : MmReg) : (s.mmxSideEffects i).ymm = s.ymm := rfl
@[simp] theorem State.mmxSideEffects_mxcsr (s : State) (i : MmReg) : (s.mmxSideEffects i).mxcsr = s.mxcsr := rfl
@[simp] theorem State.mmxSideEffects_gpr (s : State) (i : MmReg) : (s.mmxSideEffects i).gpr = s.gpr := rfl
@[simp] theorem State.mmxSideEffects_rip (s : State) (i : MmReg) : (s.mmxSideEffects i).rip = s.rip := rfl
@[simp] theorem State.mmxSideEffects_rflags (s : State) (i : MmReg) : (s.mmxSideEffects i).rflags = s.rflags := rfl
@[simp] theorem State.mmxSideEffects_cr0 (s : State) (i : MmReg) : (s.mmxSideEffects i).cr0 = s.cr0 := rfl
@[simp] theorem State.mmxSideEffects_cr2 (s : State) (i : MmReg) : (s.mmxSideEffects i).cr2 = s.cr2 := rfl
@[simp] theorem State.mmxSideEffects_cr4 (s : State) (i : MmReg) : (s.mmxSideEffects i).cr4 = s.cr4 := rfl
@[simp] theorem State.mmxSideEffects_xcr0 (s : State) (i : MmReg) : (s.mmxSideEffects i).xcr0 = s.xcr0 := rfl
@[simp] theorem State.mmxSideEffects_cpl (s : State) (i : MmReg) : (s.mmxSideEffects i).cpl = s.cpl := rfl
@[simp] theorem State.mmxSideEffects_codeMode (s : State) (i : MmReg) : (s.mmxSideEffects i).codeMode = s.codeMode := rfl
@[simp] theorem State.mmxSideEffects_segs (s : State) (i : MmReg) : (s.mmxSideEffects i).segs = s.segs := rfl
@[simp] theorem State.mmxSideEffects_features (s : State) (i : MmReg) : (s.mmxSideEffects i).features = s.features := rfl
@[simp] theorem State.mmxSideEffects_params (s : State) (i : MmReg) : (s.mmxSideEffects i).params = s.params := rfl
@[simp] theorem State.mmxSideEffects_mem (s : State) (i : MmReg) : (s.mmxSideEffects i).mem = s.mem := rfl
@[simp] theorem State.mmxSideEffects_regions (s : State) (i : MmReg) : (s.mmxSideEffects i).regions = s.regions := rfl

/-! ### `advance` -/

@[simp] theorem State.advance_mm (s : State) (n : Nat) : (s.advance n).mm = s.mm := rfl
@[simp] theorem State.advance_x87Hi (s : State) (n : Nat) : (s.advance n).x87Hi = s.x87Hi := rfl
@[simp] theorem State.advance_x87Status (s : State) (n : Nat) : (s.advance n).x87Status = s.x87Status := rfl
@[simp] theorem State.advance_x87Tag (s : State) (n : Nat) : (s.advance n).x87Tag = s.x87Tag := rfl
@[simp] theorem State.advance_ymm (s : State) (n : Nat) : (s.advance n).ymm = s.ymm := rfl
@[simp] theorem State.advance_mxcsr (s : State) (n : Nat) : (s.advance n).mxcsr = s.mxcsr := rfl
@[simp] theorem State.advance_gpr (s : State) (n : Nat) : (s.advance n).gpr = s.gpr := rfl
@[simp] theorem State.advance_rip (s : State) (n : Nat) : (s.advance n).rip = s.nextRip n := rfl
@[simp] theorem State.advance_rflags (s : State) (n : Nat) : (s.advance n).rflags = s.rflags := rfl
@[simp] theorem State.advance_cr0 (s : State) (n : Nat) : (s.advance n).cr0 = s.cr0 := rfl
@[simp] theorem State.advance_cr2 (s : State) (n : Nat) : (s.advance n).cr2 = s.cr2 := rfl
@[simp] theorem State.advance_cr4 (s : State) (n : Nat) : (s.advance n).cr4 = s.cr4 := rfl
@[simp] theorem State.advance_xcr0 (s : State) (n : Nat) : (s.advance n).xcr0 = s.xcr0 := rfl
@[simp] theorem State.advance_cpl (s : State) (n : Nat) : (s.advance n).cpl = s.cpl := rfl
@[simp] theorem State.advance_codeMode (s : State) (n : Nat) : (s.advance n).codeMode = s.codeMode := rfl
@[simp] theorem State.advance_segs (s : State) (n : Nat) : (s.advance n).segs = s.segs := rfl
@[simp] theorem State.advance_features (s : State) (n : Nat) : (s.advance n).features = s.features := rfl
@[simp] theorem State.advance_params (s : State) (n : Nat) : (s.advance n).params = s.params := rfl
@[simp] theorem State.advance_mem (s : State) (n : Nat) : (s.advance n).mem = s.mem := rfl
@[simp] theorem State.advance_regions (s : State) (n : Nat) : (s.advance n).regions = s.regions := rfl

/-! ### `placeCode` -/

@[simp] theorem State.placeCode_mm (s : State) (bs : List Byte) : (s.placeCode bs).mm = s.mm := rfl
@[simp] theorem State.placeCode_x87Hi (s : State) (bs : List Byte) : (s.placeCode bs).x87Hi = s.x87Hi := rfl
@[simp] theorem State.placeCode_x87Status (s : State) (bs : List Byte) : (s.placeCode bs).x87Status = s.x87Status := rfl
@[simp] theorem State.placeCode_x87Tag (s : State) (bs : List Byte) : (s.placeCode bs).x87Tag = s.x87Tag := rfl
@[simp] theorem State.placeCode_ymm (s : State) (bs : List Byte) : (s.placeCode bs).ymm = s.ymm := rfl
@[simp] theorem State.placeCode_mxcsr (s : State) (bs : List Byte) : (s.placeCode bs).mxcsr = s.mxcsr := rfl
@[simp] theorem State.placeCode_gpr (s : State) (bs : List Byte) : (s.placeCode bs).gpr = s.gpr := rfl
@[simp] theorem State.placeCode_rip (s : State) (bs : List Byte) : (s.placeCode bs).rip = s.rip := rfl
@[simp] theorem State.placeCode_rflags (s : State) (bs : List Byte) : (s.placeCode bs).rflags = s.rflags := rfl
@[simp] theorem State.placeCode_cr0 (s : State) (bs : List Byte) : (s.placeCode bs).cr0 = s.cr0 := rfl
@[simp] theorem State.placeCode_cr2 (s : State) (bs : List Byte) : (s.placeCode bs).cr2 = s.cr2 := rfl
@[simp] theorem State.placeCode_cr4 (s : State) (bs : List Byte) : (s.placeCode bs).cr4 = s.cr4 := rfl
@[simp] theorem State.placeCode_xcr0 (s : State) (bs : List Byte) : (s.placeCode bs).xcr0 = s.xcr0 := rfl
@[simp] theorem State.placeCode_cpl (s : State) (bs : List Byte) : (s.placeCode bs).cpl = s.cpl := rfl
@[simp] theorem State.placeCode_codeMode (s : State) (bs : List Byte) : (s.placeCode bs).codeMode = s.codeMode := rfl
@[simp] theorem State.placeCode_segs (s : State) (bs : List Byte) : (s.placeCode bs).segs = s.segs := rfl
@[simp] theorem State.placeCode_features (s : State) (bs : List Byte) : (s.placeCode bs).features = s.features := rfl
@[simp] theorem State.placeCode_params (s : State) (bs : List Byte) : (s.placeCode bs).params = s.params := rfl
@[simp] theorem State.placeCode_mem (s : State) (bs : List Byte) : (s.placeCode bs).mem = memSetBytes s.pcSpan s.mem (s.segBase .cs + s.rip.toNat) bs := rfl
@[simp] theorem State.placeCode_regions (s : State) (bs : List Byte) : (s.placeCode bs).regions = s.regions := rfl

/-! ### The two XMM writes are YMM writes (10_state.md R22) -/

theorem State.writeXmmLegacy_eq (s : State) (i : VecReg) (v : BitVec 128) :
    s.writeXmmLegacy i v = s.writeYmm i (laneHigh (s.readYmm i) ++ v) := rfl

theorem State.writeXmmVex_eq (s : State) (i : VecReg) (v : BitVec 128) :
    s.writeXmmVex i v = s.writeYmm i (0#128 ++ v) := rfl

/-! ### Registers read after a write -/

theorem State.readMm_writeMm_self (s : State) (i : MmReg) (v : BitVec 64) : (s.writeMm i v).readMm i = v := by
  simp [State.readMm]

theorem State.readMm_writeMm_of_ne (s : State) {i r : MmReg} (v : BitVec 64) (h : r ≠ i) :
    (s.writeMm i v).readMm r = s.readMm r := by
  have hn : i.toFin.val ≠ r.toFin.val := fun e => h (BitVec.eq_of_toNat_eq e.symm)
  simp only [State.readMm, State.writeMm_mm, Fin.getElem_fin]
  exact Vector.getElem_set_ne _ _ hn

theorem State.readYmm_writeYmm_self (s : State) (i : VecReg) (v : BitVec 256) : (s.writeYmm i v).readYmm i = v := by
  simp [State.readYmm]

theorem State.readYmm_writeYmm_of_ne (s : State) {i r : VecReg} (v : BitVec 256) (h : r ≠ i) :
    (s.writeYmm i v).readYmm r = s.readYmm r := by
  have hn : i.toFin.val ≠ r.toFin.val := fun e => h (BitVec.eq_of_toNat_eq e.symm)
  simp only [State.readYmm, State.writeYmm_ymm, Fin.getElem_fin]
  exact Vector.getElem_set_ne _ _ hn

theorem State.readX87Hi_mmxSideEffects_self (s : State) (i : MmReg) : (s.mmxSideEffects i).readX87Hi i = 0xFFFF#16 := by
  simp [State.readX87Hi]

theorem State.readX87Hi_mmxSideEffects_of_ne (s : State) {i r : MmReg} (h : r ≠ i) :
    (s.mmxSideEffects i).readX87Hi r = s.readX87Hi r := by
  have hn : i.toFin.val ≠ r.toFin.val := fun e => h (BitVec.eq_of_toNat_eq e.symm)
  simp only [State.readX87Hi, State.mmxSideEffects_x87Hi, Fin.getElem_fin]
  exact Vector.getElem_set_ne _ _ hn

/-! ### The lanes of a YMM value -/

@[simp] theorem laneLow_append (a b : BitVec 128) : laneLow (a ++ b) = b := by
  refine BitVec.eq_of_getLsbD_eq fun i hi => ?_
  have e := BitVec.getLsbD_append (x := a) (y := b) (i := i)
  simp only [hi] at e
  simpa [laneLow, hi] using e

@[simp] theorem laneHigh_append (a b : BitVec 128) : laneHigh (a ++ b) = a := by
  refine BitVec.eq_of_getLsbD_eq fun i hi => ?_
  have e := BitVec.getLsbD_append (x := a) (y := b) (i := 128 + i)
  simp only [show ¬ 128 + i < 128 by omega, Nat.add_sub_cancel_left] at e
  simpa [laneHigh, hi] using e

end Sys2Proof.Machine
end

