-- ==== Sys2Proof/Laws/Ops.lean ====
section
/-! SUPPORT. Laws.Ops: for each shared operation, one lemma that says once everything it can do. -/

namespace Sys2Proof.Machine

/-! ### `finish` -/

theorem finish_next_iff (s t : State) (r : Except Stop State) : s.finish r = .next t ↔ r = .ok t := by
  rcases r with (_ | _ | _) | _ <;> simp [State.finish, State.raise]

theorem finish_fault_iff (s : State) (r : Except Stop State) (f : Fault) :
    s.finish r = .fault f ↔
      (∃ x, r = .error (.exc x) ∧ f = .raised x s) ∨ (∃ a, r = .error (.noMemory a) ∧ f = .noMemory a s) := by
  rcases r with (_ | _ | _) | _ <;> simp [State.finish, State.raise, eq_comm]

theorem finish_refused_iff (s : State) (r : Except Stop State) (q : Refusal) :
    s.finish r = .refused q ↔ r = .error (.refuse q) := by
  rcases r with (_ | _ | _) | _ <;> simp [State.finish, State.raise]

/-! ### Type4Check -/

theorem replaced_eq_some_iff (s : State) (k : Nat) : s.replaced = some k ↔ s.params.type4 = .other k := by
  unfold State.replaced
  split <;> simp_all

theorem segPass_replaced (s : State) (k : Nat) (h : s.replaced = some k) (g : Seg) (addr : BitVec 64) (n : Nat) :
    s.segPass g addr n = true := by simp [State.segPass, h]

theorem segPass_default (s : State) (h : s.replaced = none) (g : Seg) (addr : BitVec 64) (n : Nat) :
    s.segPass g addr n = s.segOk g addr n := by simp [State.segPass, h]

@[simp] theorem boundary_mmx (s : State) : boundary s .mmx = 1 := rfl

theorem boundary_sse_replaced (s : State) (k : Nat) (h : s.replaced = some k) : boundary s .sse = 1 := by
  simp [boundary, h]

theorem boundary_sse_default (s : State) (h : s.replaced = none) : boundary s .sse = 16 := by simp [boundary, h]

/-- The boundary of the VEX forms is VEX_ALIGN_ENFORCED, whichever function stands for Type4Check (20_memory.md R57). -/
theorem boundary_vex (s : State) :
    boundary s .vex128 = (if s.params.vexAlignEnforced = true then 16 else 1) ∧
      boundary s .vex256 = if s.params.vexAlignEnforced = true then 32 else 1 := ⟨rfl, rfl⟩

/-! ### `usable` -/

theorem usableTable_ok_iff (c : Cls) (s : State) : usableTable c s = .ok () ↔ ClassEnabled c s := by
  cases c <;> simp only [usableTable, ClassEnabled, MmxUsable, SseEnabled, Vex128Enabled, Vex256Enabled] <;>
    split_ifs with h1 h2 h3 <;> first | (simp_all; done) | (rcases h3 with h3 | h3 <;> simp_all) |
      (rcases h2 with h2 | h2 <;> simp_all)

/-- `Usable` raises #UD, #NM, or for the MMX forms #MF, and nothing else. -/
theorem usableTable_error (c : Cls) (s : State) (e : Stop) (h : usableTable c s = .error e) :
    e = .exc .ud ∨ e = .exc .nm ∨ (c = .mmx ∧ e = .exc .mf) := by
  cases c <;> simp only [usableTable] at h <;> split_ifs at h <;> cases h <;> simp

theorem usable_default (c : Cls) (el : Elem) (s : State) (op : Option (Seg × BitVec 64)) (h : s.replaced = none) :
    usable c el s op = usableTable c s := by simp [usable, h]

theorem usable_ok_iff (c : Cls) (el : Elem) (s : State) (op : Option (Seg × BitVec 64)) :
    usable c el s op = .ok () ↔ FormUsable c el s op := by
  cases h : s.replaced with
  | none => simp [usable_default c el s op h, usableTable_ok_iff, FormUsable, h]
  | some k =>
    simp only [usable, h, FormUsable]
    split
    · simp_all
    · split <;> simp_all

/-- What the checks before an instruction can raise: what `Usable` raises, #UD where the form does not exist, or what the free
function raises. -/
theorem usable_error (c : Cls) (el : Elem) (s : State) (op : Option (Seg × BitVec 64)) (e : Stop)
    (h : usable c el s op = .error e) :
    (s.replaced = none ∧ (e = .exc .ud ∨ e = .exc .nm ∨ (c = .mmx ∧ e = .exc .mf))) ∨
      ∃ k, s.replaced = some k ∧ ((s.formThere c = false ∧ e = .exc .ud) ∨
        (s.formThere c = true ∧ ∃ x, otherType4Check k c el s op = some x ∧ e = .exc x)) := by
  cases hr : s.replaced with
  | none => exact .inl ⟨rfl, usableTable_error c s e (usable_default c el s op hr ▸ h)⟩
  | some k =>
    simp only [usable, hr] at h
    refine .inr ⟨k, rfl, ?_⟩
    split at h
    · rename_i hf
      cases h
      exact .inl ⟨hf, rfl⟩
    · rename_i hf
      split at h
      · rename_i x hx
        cases h
        exact .inr ⟨by simpa using hf, x, hx, rfl⟩
      · cases h

/-! ### Memory -/

theorem byteStop_none_iff (s : State) (a : Nat) :
    s.byteStop a = none ↔ s.isPresent a = true ∧ (s.opMode = .real ∨ s.isProtected a = false) := by
  unfold State.byteStop
  split_ifs <;> simp_all

/-- A byte that stops an access: absent in real-address mode, else a page fault with the code of R63. -/
theorem byteStop_some (s : State) (a : Nat) (e : Stop) (h : s.byteStop a = some e) :
    (s.opMode = .real ∧ s.isPresent a = false ∧ e = .noMemory a) ∨
      (s.opMode ≠ .real ∧ s.isPresent a = false ∧ e = .exc (.pf (s.pfCode false) (BitVec.ofNat 64 a))) ∨
      (s.opMode ≠ .real ∧ s.isPresent a = true ∧ s.isProtected a = true ∧
        e = .exc (.pf (s.pfCode true) (BitVec.ofNat 64 a))) := by
  unfold State.byteStop at h
  split_ifs at h <;> cases h <;> simp_all

theorem transStop_none_iff (s : State) (g : Seg) (addr : BitVec 64) (n : Nat) :
    s.transStop g addr n = none ↔
      ∀ k, s.fetchStart n ≤ k → k < n → s.byteStop (s.linear g addr k) = none := by
  simp only [State.transStop, State.operandBytes, List.findSome?_eq_none_iff, List.mem_map, List.mem_range'_1,
    forall_exists_index, and_imp]
  constructor
  · intro h k h1 h2
    exact h _ k h1 (by omega) rfl
  · intro h a k h1 h2 e
    exact e ▸ h k h1 (by omega)

theorem operandBytes_any_device (s : State) (g : Seg) (addr : BitVec 64) (n : Nat) :
    (s.operandBytes g addr 0 n).any s.isDevice = false ↔ ∀ k, k < n → s.isDevice (s.linear g addr k) = false := by
  simp [State.operandBytes]

/-- Everything a memory operand read can be when it succeeds (20_memory.md R52). -/
theorem memRead_ok_iff (w : Nat) (s : State) (c : Cls) (g : Seg) (asz : AddrSize) (addr : BitVec 64) (v : BitVec w) :
    memRead w s c g asz addr = .ok v ↔
      s.segPass g addr (operandSize c) = true ∧ addr.toNat + operandSize c ≤ addrSpan asz ∧
        addr.toNat % boundary s c = 0 ∧ s.transStop g addr (operandSize c) = none ∧ ¬ AcFails s c addr ∧
        (s.operandBytes g addr 0 (operandSize c)).any s.isDevice = false ∧
        v = s.loadLE w (s.linear g addr) (operandSize c) := by
  unfold memRead AcFails
  split
  · simp_all
  · split
    · simp_all
    · split
      · simp_all
      · split
        · simp_all
        · split
          · simp_all
          · split
            · simp_all
            · rename_i h1 h2 h3 _ h4 h5 h6
              constructor
              · intro h
                injection h with h
                exact ⟨by simpa using h1, by omega, by simpa using h3, h4, h5, by simpa using h6, h.symm⟩
              · rintro ⟨-, -, -, -, -, -, rfl⟩
                rfl

/-- Byte `k` of a little-endian load is the byte at the `k`-th address (20_memory.md R51). -/
theorem loadLE_byte (s : State) (w : Nat) (f : Nat → Nat) :
    ∀ n : Nat, 8 * n ≤ w → ∀ k : Nat, k < n → (s.loadLE w f n).extractLsb' (8 * k) 8 = (s.byteAt (f k)).getD 0#8 := by
  have high : ∀ n : Nat, ∀ i : Nat, 8 * n ≤ i → (s.loadLE w f n).getLsbD i = false := by
    intro n
    induction n with
    | zero => intro i _; simp [State.loadLE]
    | succ n ih =>
      intro i hi
      have h8 : ((s.byteAt (f n)).getD 0#8).getLsbD (i - 8 * n) = false :=
        BitVec.getLsbD_of_ge _ _ (by omega)
      simp [State.loadLE, ih i (by omega), h8]
  intro n
  induction n with
  | zero => intro _ k hk; omega
  | succ n ih =>
    intro hw k hk
    refine BitVec.eq_of_getLsbD_eq fun i hi => ?_
    have hiw : 8 * k + i < w := by omega
    rcases Nat.lt_or_ge k n with hkn | hkn
    · have e := congrArg (fun b => b.getLsbD i) (ih (by omega) k hkn)
      simp only [BitVec.getLsbD_extractLsb', hi, decide_true, Bool.true_and] at e
      have hlt : 8 * k + i < 8 * n := by omega
      simp only [State.loadLE, BitVec.getLsbD_extractLsb', hi, decide_true, Bool.true_and, BitVec.getLsbD_or,
        BitVec.getLsbD_shiftLeft, hlt, decide_true, Bool.not_true, Bool.and_false, Bool.false_and, Bool.or_false]
      exact e
    · have hkn' : k = n := by omega
      subst hkn'
      have hz : (s.loadLE w f k).getLsbD (8 * k + i) = false := high k _ (by omega)
      have hnl : ¬ 8 * k + i < 8 * k := by omega
      simp only [State.loadLE, BitVec.getLsbD_extractLsb', hi, decide_true, Bool.true_and, BitVec.getLsbD_or, hz,
        Bool.false_or, BitVec.getLsbD_shiftLeft, hiw, hnl, decide_false, Bool.not_false,
        BitVec.getLsbD_setWidth, Nat.add_sub_cancel_left]
      simp [show i < w by omega]

/-! ### The program counter -/

theorem nextRip_toNat (s : State) (n : Nat) (h : s.rip.toNat + n < s.pcSpan) :
    (s.nextRip n).toNat = s.rip.toNat + n := by
  have hs : s.pcSpan ≤ 2 ^ 64 := by
    unfold State.pcSpan
    split
    · exact Nat.le_refl _
    · exact Nat.pow_le_pow_right (by decide) (by decide)
  rw [State.nextRip, if_pos h, BitVec.toNat_ofNat, Nat.mod_eq_of_lt (Nat.lt_of_lt_of_le h hs)]

/-- Outside 64-bit mode the program counter stays an EIP of 32 bits (10_state.md R26). -/
theorem nextRip_lt (s : State) (n : Nat) (h : s.codeMode ≠ .m64) : (s.nextRip n).toNat < 2 ^ 32 := by
  unfold State.nextRip
  split
  · rename_i hlt
    have : s.rip.toNat + n < 2 ^ 32 := by simpa [State.pcSpan, h] using hlt
    rw [BitVec.toNat_ofNat, Nat.mod_eq_of_lt (by omega)]
    exact this
  · rw [BitVec.toNat_setWidth, BitVec.toNat_setWidth]
    exact Nat.lt_of_le_of_lt (Nat.mod_le _ _) (Nat.mod_lt _ (by decide))

/-! ### The x87 status word -/

theorem clearTos_tos (w : BitVec 16) : (clearTos w).extractLsb' 11 3 = 0 := by
  refine BitVec.eq_of_getLsbD_eq fun i hi => ?_
  have : (0xC7FF#16).getLsbD (11 + i) = false := by
    rcases (by omega : i = 0 ∨ i = 1 ∨ i = 2) with rfl | rfl | rfl <;> rfl
  simp [clearTos, BitVec.getLsbD_extractLsb', BitVec.getLsbD_and, this]

theorem clearTos_other (w : BitVec 16) (k : Nat) (h : ¬ (11 ≤ k ∧ k ≤ 13)) :
    (clearTos w).getLsbD k = w.getLsbD k := by
  rcases Nat.lt_or_ge k 16 with hk | hk
  · have : (0xC7FF#16).getLsbD k = true := by
      have : ∀ j : Fin 16, ¬ (11 ≤ j.val ∧ j.val ≤ 13) → (0xC7FF#16).getLsbD j.val = true := by decide
      exact this ⟨k, hk⟩ h
    rw [clearTos, BitVec.getLsbD_and, this, Bool.and_true]
  · rw [BitVec.getLsbD_of_ge _ _ hk, BitVec.getLsbD_of_ge _ _ hk]

/-! ### The steps of the four classes -/

theorem stepMmx_next_iff (el : Elem) (e : LegacyEnc) (dst : MmReg) (src : RM 3) (s t : State) :
    stepMmx el e dst src s = .next t ↔
      FormUsable .mmx el s (s.operandOf (legacyLen e src) src) ∧ ∃ b, s.srcMm (legacyLen e src) src = .ok b ∧
        t = ((s.writeMm dst (ih64 el.width (s.readMm dst) b)).mmxSideEffects dst).advance (legacyLen e src) := by
  rw [stepMmx, finish_next_iff, ← usable_ok_iff]
  cases usable .mmx el s (s.operandOf (legacyLen e src) src) <;> cases s.srcMm (legacyLen e src) src <;> simp [eq_comm]

theorem stepSse_next_iff (el : Elem) (e : LegacyEnc) (dst : VecReg) (src : RM 4) (s t : State) :
    stepSse el e dst src s = .next t ↔
      FormUsable .sse el s (s.operandOf (legacyLen e src) src) ∧ ∃ b, s.srcXmmLegacy (legacyLen e src) src = .ok b ∧
        t = (s.writeXmmLegacy dst (ih128 el.width (s.readXmm dst) b)).advance (legacyLen e src) := by
  rw [stepSse, finish_next_iff, ← usable_ok_iff]
  cases usable .sse el s (s.operandOf (legacyLen e src) src) <;> cases s.srcXmmLegacy (legacyLen e src) src <;> simp [eq_comm]

theorem stepVex128_next_iff (el : Elem) (e : VexEnc) (dst src1 : VecReg) (src2 : RM 4) (s t : State) :
    stepVex128 el e dst src1 src2 s = .next t ↔
      FormUsable .vex128 el s (s.operandOf (vexLen e src2) src2) ∧ ∃ b, s.srcXmmVex (vexLen e src2) src2 = .ok b ∧
        t = (s.writeXmmVex dst (ih128 el.width (s.readXmm src1) b)).advance (vexLen e src2) := by
  rw [stepVex128, finish_next_iff, ← usable_ok_iff]
  cases usable .vex128 el s (s.operandOf (vexLen e src2) src2) <;> cases s.srcXmmVex (vexLen e src2) src2 <;> simp [eq_comm]

theorem stepVex256_next_iff (el : Elem) (e : VexEnc) (dst src1 : VecReg) (src2 : RM 4) (s t : State) :
    stepVex256 el e dst src1 src2 s = .next t ↔
      FormUsable .vex256 el s (s.operandOf (vexLen e src2) src2) ∧ ∃ b, s.srcYmm (vexLen e src2) src2 = .ok b ∧
        t = (s.writeYmm dst (ih256 el.width (s.readYmm src1) b)).advance (vexLen e src2) := by
  rw [stepVex256, finish_next_iff, ← usable_ok_iff]
  cases usable .vex256 el s (s.operandOf (vexLen e src2) src2) <;> cases s.srcYmm (vexLen e src2) src2 <;> simp [eq_comm]

end Sys2Proof.Machine
end

