-- ==== Sys2Proof/Laws/Exec.lean ====
section
/-! SUPPORT. Laws.Exec: the three things that executing any instruction can do, from `usable` and the read of its memory operand. -/

namespace Sys2Proof.Machine

/-- Every way in which a memory operand read can stop (60_exceptions.md R209, R210), with what held before it. -/
theorem memRead_error {w : Nat} {s : State} {c : Cls} {g : Seg} {asz : AddrSize} {addr : BitVec 64} {e : Stop}
    (h : memRead w s c g asz addr = .error e) :
    (s.segPass g addr (operandSize c) = false ∧ e = .exc (s.segFault c g)) ∨
      (s.segPass g addr (operandSize c) = true ∧ addrSpan asz < addr.toNat + operandSize c ∧
        e = .refuse .operandPastEnd) ∨
      (s.segPass g addr (operandSize c) = true ∧ addr.toNat + operandSize c ≤ addrSpan asz ∧
        addr.toNat % boundary s c ≠ 0 ∧ e = .exc .gp) ∨
      (s.segPass g addr (operandSize c) = true ∧ addr.toNat + operandSize c ≤ addrSpan asz ∧
        addr.toNat % boundary s c = 0 ∧ s.transStop g addr (operandSize c) = some e) ∨
      (s.transStop g addr (operandSize c) = none ∧ AcFails s c addr ∧ e = .exc .ac) ∨
      (s.transStop g addr (operandSize c) = none ∧ (s.operandBytes g addr 0 (operandSize c)).any s.isDevice = true ∧
        e = .refuse .deviceOperand) := by
  unfold memRead at h
  split at h
  · rename_i h1
    cases h
    exact .inl ⟨h1, rfl⟩
  · rename_i h1
    have h1 : s.segPass g addr (operandSize c) = true := by simpa using h1
    split at h
    · rename_i h2
      cases h
      exact .inr (.inl ⟨h1, h2, rfl⟩)
    · rename_i h2
      have h2 : addr.toNat + operandSize c ≤ addrSpan asz := Nat.le_of_not_lt h2
      split at h
      · rename_i h3
        cases h
        exact .inr (.inr (.inl ⟨h1, h2, h3, rfl⟩))
      · rename_i h3
        have h3 : addr.toNat % boundary s c = 0 := by simpa using h3
        split at h
        · rename_i h4
          cases h
          exact .inr (.inr (.inr (.inl ⟨h1, h2, h3, h4⟩)))
        · rename_i h4
          split at h
          · rename_i h5
            cases h
            exact .inr (.inr (.inr (.inr (.inl ⟨h4, h5, rfl⟩))))
          · split at h
            · rename_i h6
              cases h
              exact .inr (.inr (.inr (.inr (.inr ⟨h4, h6, rfl⟩))))
            · cases h

/-- The read of a memory operand of a class, if there is one, with its value forgotten. -/
def memOperandRead (c : Cls) (s : State) (len : Nat) : Option MemOp → Except Stop Unit
  | none => .ok ()
  | some o => (memRead (8 * operandSize c) s c o.seg o.asz (s.effAddr len o)).map fun _ => ()

/-- The read of an instruction's memory operand with its value forgotten; nothing to read where the operand is a register. -/
def operandRead (i : Instr) (s : State) : Except Stop Unit := memOperandRead i.cls s i.len i.mem?

/-- The three things a form can do, from its checks and the read of its operand: complete, stop by the checks, stop by the read. -/
def FormCases (s : State) (check read : Except Stop Unit) (r : Result) : Prop :=
  (check = .ok () ∧ read = .ok () ∧ ∃ t, r = .next t) ∨
    (∃ e, check = .error e ∧ r = s.finish (.error e)) ∨
    (check = .ok () ∧ ∃ e, read = .error e ∧ r = s.finish (.error e))

theorem stepMmx_cases (el : Elem) (e : LegacyEnc) (d : MmReg) (r : RM 3) (s : State) :
    FormCases s (usable .mmx el s (r.mem?.map fun o => (o.seg, s.effAddr (legacyLen e r) o)))
      (memOperandRead .mmx s (legacyLen e r) r.mem?) (stepMmx el e d r s) := by
  cases r with
  | reg r =>
    simp only [stepMmx, State.operandOf, RM.mem?, Option.map_none, memOperandRead]
    cases usable .mmx el s none with
    | error x => exact .inr (.inl ⟨x, rfl, rfl⟩)
    | ok u => exact .inl ⟨rfl, rfl, _, rfl⟩
  | mem o =>
    simp only [stepMmx, State.operandOf, RM.mem?, Option.map_some, memOperandRead, State.srcMm, operandSize]
    generalize legacyLen e (RM.mem o : RM 3) = n
    cases usable .mmx el s (some (o.seg, s.effAddr n o)) with
    | error x => exact .inr (.inl ⟨x, rfl, rfl⟩)
    | ok u =>
      cases memRead 64 s .mmx o.seg o.asz (s.effAddr n o) with
      | ok v => exact .inl ⟨rfl, rfl, _, rfl⟩
      | error x => exact .inr (.inr ⟨rfl, x, rfl, rfl⟩)

theorem stepSse_cases (el : Elem) (e : LegacyEnc) (d : VecReg) (r : RM 4) (s : State) :
    FormCases s (usable .sse el s (r.mem?.map fun o => (o.seg, s.effAddr (legacyLen e r) o)))
      (memOperandRead .sse s (legacyLen e r) r.mem?) (stepSse el e d r s) := by
  cases r with
  | reg r =>
    simp only [stepSse, State.operandOf, RM.mem?, Option.map_none, memOperandRead]
    cases usable .sse el s none with
    | error x => exact .inr (.inl ⟨x, rfl, rfl⟩)
    | ok u => exact .inl ⟨rfl, rfl, _, rfl⟩
  | mem o =>
    simp only [stepSse, State.operandOf, RM.mem?, Option.map_some, memOperandRead, State.srcXmmLegacy, operandSize]
    generalize legacyLen e (RM.mem o : RM 4) = n
    cases usable .sse el s (some (o.seg, s.effAddr n o)) with
    | error x => exact .inr (.inl ⟨x, rfl, rfl⟩)
    | ok u =>
      cases memRead 128 s .sse o.seg o.asz (s.effAddr n o) with
      | ok v => exact .inl ⟨rfl, rfl, _, rfl⟩
      | error x => exact .inr (.inr ⟨rfl, x, rfl, rfl⟩)

theorem stepVex128_cases (el : Elem) (e : VexEnc) (d a : VecReg) (r : RM 4) (s : State) :
    FormCases s (usable .vex128 el s (r.mem?.map fun o => (o.seg, s.effAddr (vexLen e r) o)))
      (memOperandRead .vex128 s (vexLen e r) r.mem?) (stepVex128 el e d a r s) := by
  cases r with
  | reg r =>
    simp only [stepVex128, State.operandOf, RM.mem?, Option.map_none, memOperandRead]
    cases usable .vex128 el s none with
    | error x => exact .inr (.inl ⟨x, rfl, rfl⟩)
    | ok u => exact .inl ⟨rfl, rfl, _, rfl⟩
  | mem o =>
    simp only [stepVex128, State.operandOf, RM.mem?, Option.map_some, memOperandRead, State.srcXmmVex, operandSize]
    generalize vexLen e (RM.mem o : RM 4) = n
    cases usable .vex128 el s (some (o.seg, s.effAddr n o)) with
    | error x => exact .inr (.inl ⟨x, rfl, rfl⟩)
    | ok u =>
      cases memRead 128 s .vex128 o.seg o.asz (s.effAddr n o) with
      | ok v => exact .inl ⟨rfl, rfl, _, rfl⟩
      | error x => exact .inr (.inr ⟨rfl, x, rfl, rfl⟩)

theorem stepVex256_cases (el : Elem) (e : VexEnc) (d a : VecReg) (r : RM 4) (s : State) :
    FormCases s (usable .vex256 el s (r.mem?.map fun o => (o.seg, s.effAddr (vexLen e r) o)))
      (memOperandRead .vex256 s (vexLen e r) r.mem?) (stepVex256 el e d a r s) := by
  cases r with
  | reg r =>
    simp only [stepVex256, State.operandOf, RM.mem?, Option.map_none, memOperandRead]
    cases usable .vex256 el s none with
    | error x => exact .inr (.inl ⟨x, rfl, rfl⟩)
    | ok u => exact .inl ⟨rfl, rfl, _, rfl⟩
  | mem o =>
    simp only [stepVex256, State.operandOf, RM.mem?, Option.map_some, memOperandRead, State.srcYmm, operandSize]
    generalize vexLen e (RM.mem o : RM 4) = n
    cases usable .vex256 el s (some (o.seg, s.effAddr n o)) with
    | error x => exact .inr (.inl ⟨x, rfl, rfl⟩)
    | ok u =>
      cases memRead 256 s .vex256 o.seg o.asz (s.effAddr n o) with
      | ok v => exact .inl ⟨rfl, rfl, _, rfl⟩
      | error x => exact .inr (.inr ⟨rfl, x, rfl, rfl⟩)

/-- Executing an instruction completes where it is usable and its operand can be read; else it stops by the first of the two that
stops (60_exceptions.md R211). -/
theorem exec_cases (i : Instr) (s : State) :
    FormCases s (usable i.cls i.elem s (operandAt i s)) (operandRead i s) (exec i s) := by
  cases i with
  | punpckhbwMm e d r | punpckhwdMm e d r | punpckhdqMm e d r => exact stepMmx_cases _ e d r s
  | punpckhbwXmm e d r | punpckhwdXmm e d r | punpckhdqXmm e d r | punpckhqdqXmm e d r => exact stepSse_cases _ e d r s
  | vpunpckhbwXmm e d a r | vpunpckhwdXmm e d a r | vpunpckhdqXmm e d a r | vpunpckhqdqXmm e d a r =>
    exact stepVex128_cases _ e d a r s
  | vpunpckhbwYmm e d a r | vpunpckhwdYmm e d a r | vpunpckhdqYmm e d a r | vpunpckhqdqYmm e d a r =>
    exact stepVex256_cases _ e d a r s

end Sys2Proof.Machine
end

