-- ==== Sys2Proof/Laws/Interleave.lean ====
section
/-! SUPPORT. Laws.Interleave: every bit of an interleave is one bit of one of its sources. -/

namespace Sys2Proof.Machine

theorem elemAt_getLsbD (n k : Nat) {w : Nat} (e : BitVec w) (j : Nat) (hj : j < n) :
    (elemAt n k e).getLsbD j = (decide (w * k ≤ j) && e.getLsbD (j - w * k)) := by
  by_cases h : w * k ≤ j
  · simp [elemAt, hj, h, Nat.not_lt.2 h]
  · simp [elemAt, hj, h, Nat.lt_of_not_le h]

/-- Bit `j` of an interleave: the position `j / w` is even for the first source and odd for the second, and counts the source's
elements in pairs from `h` on (40_interleave_functions.md R139, R140). -/
theorem interleaveFrom_getLsbD {n : Nat} (w h : Nat) (hw : 0 < w) (a b : BitVec n) (i j : Nat) (hj : j < n) :
    (interleaveFrom w h a b i).getLsbD j =
      (decide (j < w * (2 * i)) &&
        (if j / w % 2 = 0 then a else b).getLsbD (w * (h + j / w / 2) + j % w)) := by
  induction i with
  | zero => simp [interleaveFrom]
  | succ i ih =>
    have hdm : w * (j / w) + j % w = j := Nat.div_add_mod j w
    have hmod : j % w < w := Nat.mod_lt j hw
    have hq : ∀ m : Nat, w * m ≤ j ↔ m ≤ j / w := fun m => by
      rw [Nat.le_div_iff_mul_le hw, Nat.mul_comm]
    have hl : ∀ m : Nat, j < w * m ↔ j / w < m := fun m => by
      rw [Nat.div_lt_iff_lt_mul hw, Nat.mul_comm]
    simp only [interleaveFrom, BitVec.getLsbD_or, ih, elemAt_getLsbD _ _ _ _ hj, elemOf, BitVec.getLsbD_extractLsb', hq, hl]
    generalize j / w = q at *
    rcases Nat.lt_trichotomy q (2 * i) with h1 | h1 | h1
    · simp [h1, show ¬ 2 * i ≤ q by omega, show ¬ 2 * i + 1 ≤ q by omega, show q < 2 * (i + 1) by omega]
    · subst h1
      have e : j - w * (2 * i) = j % w := by omega
      simp [e, hmod, show ¬ 2 * i + 1 ≤ 2 * i by omega]
    · rcases Nat.lt_trichotomy q (2 * i + 1) with h2 | h2 | h2
      · omega
      · subst h2
        have e : j - w * (2 * i + 1) = j % w := by omega
        have e2 : ¬ j - w * (2 * i) < w := by
          rw [Nat.mul_add] at hdm
          omega
        simp [e, e2, hmod, show ¬ 2 * i + 1 < 2 * i by omega, show (2 * i + 1) % 2 = 1 by omega,
          show (2 * i + 1) / 2 = i by omega, show 2 * i + 1 < 2 * (i + 1) by omega]
      · have g : w * (2 * i + 2) ≤ w * q := Nat.mul_le_mul_left w (by omega)
        have e1 : ¬ j - w * (2 * i) < w := by
          rw [Nat.mul_add] at g
          omega
        have e2 : ¬ j - w * (2 * i + 1) < w := by
          rw [Nat.mul_add] at g ⊢
          omega
        simp [e1, e2, show ¬ q < 2 * i by omega, show ¬ q < 2 * (i + 1) by omega]

end Sys2Proof.Machine
end

