-- ==== Sys2Proof/Laws/Memory.lean ====
section
/-! SUPPORT. Laws.Memory: read after write, and the canonical form that every memory operation keeps. -/

namespace Sys2Proof.Machine

/-! ### Read after write -/

theorem memGet_memSet_self (m : List Host.Cell) (a : Nat) (b : Byte) : memGet (memSet m a b) a = some b := by
  induction m with
  | nil => simp [memSet, memGet]
  | cons c m ih =>
    unfold memSet
    split
    · simp [memGet]
    · split
      · simp [memGet]
      · rename_i h1 h2
        simp [memGet, show c.1 ≠ a from fun e => h2 e.symm, ih]

theorem memGet_memSet_of_ne (m : List Host.Cell) {a x : Nat} (b : Byte) (h : x ≠ a) :
    memGet (memSet m a b) x = memGet m x := by
  induction m with
  | nil => simp [memSet, memGet, Ne.symm h]
  | cons c m ih =>
    unfold memSet
    split
    · simp [memGet, Ne.symm h]
    · split
      · rename_i h1 h2
        simp [memGet, Ne.symm h, h2 ▸ Ne.symm h]
      · simp only [memGet, ih]

/-! ### The canonical form -/

/-- Whether every address listed is above a bound, as a proposition. -/
theorem memAbove_iff (a : Nat) (m : List Host.Cell) : memAbove a m = true ↔ ∀ c ∈ m, a < c.1 := by
  induction m with
  | nil => simp [memAbove]
  | cons c m ih => simp [memAbove, ih]

theorem memAbove_memSet {a x : Nat} {b : Byte} {m : List Host.Cell} (ha : a < x) (h : memAbove a m = true) :
    memAbove a (memSet m x b) = true := by
  induction m with
  | nil => simpa [memSet, memAbove] using ha
  | cons c m ih =>
    simp only [memAbove, Bool.and_eq_true, decide_eq_true_eq] at h
    unfold memSet
    split
    · simp [memAbove, ha, h]
    · split
      · simp [memAbove, ha, h]
      · simp [memAbove, ih h.2, h.1]

theorem memWf_memSet {m : List Host.Cell} {a : Nat} (b : Byte) (ha : a < 2 ^ 64) (h : memWf m = true) :
    memWf (memSet m a b) = true := by
  induction m with
  | nil => simpa [memSet, memWf, memAbove] using ha
  | cons c m ih =>
    simp only [memWf, Bool.and_eq_true, decide_eq_true_eq] at h
    obtain ⟨⟨hc, hab⟩, hm⟩ := h
    unfold memSet
    split
    · rename_i hlt
      have : memAbove a m = true :=
        (memAbove_iff a m).2 fun x hx => Nat.lt_trans hlt ((memAbove_iff c.1 m).1 hab x hx)
      simp only [memWf, memAbove, Bool.and_eq_true, decide_eq_true_eq]
      exact ⟨⟨ha, hlt, this⟩, ⟨hc, hab⟩, hm⟩
    · split
      · rename_i heq
        subst heq
        simp only [memWf, Bool.and_eq_true, decide_eq_true_eq]
        exact ⟨⟨ha, hab⟩, hm⟩
      · rename_i h1 h2
        simp only [memWf, Bool.and_eq_true, decide_eq_true_eq]
        exact ⟨⟨hc, memAbove_memSet (by omega) hab⟩, ih hm⟩

theorem memWf_memSetBytes {span : Nat} (hs : 0 < span) (hs' : span ≤ 2 ^ 64) (bs : List Byte) :
    ∀ (m : List Host.Cell) (a : Nat), memWf m = true → memWf (memSetBytes span m a bs) = true := by
  induction bs with
  | nil => exact fun m a h => h
  | cons b bs ih =>
    intro m a h
    exact ih _ _ (memWf_memSet b (Nat.lt_of_lt_of_le (Nat.mod_lt a hs) hs') h)

/-- A canonical memory lists no byte at or below its bound. -/
theorem memGet_eq_none_of_memAbove {a x : Nat} (hx : x ≤ a) {m : List Host.Cell} (h : memAbove a m = true) :
    memGet m x = none := by
  induction m with
  | nil => rfl
  | cons c m ih =>
    simp only [memAbove, Bool.and_eq_true, decide_eq_true_eq] at h
    simp [memGet, ih h.2, show c.1 ≠ x by omega]

/-- Two canonical memories that read alike everywhere are the same data. -/
theorem mem_ext : ∀ {m m' : List Host.Cell}, memWf m = true → memWf m' = true →
    (∀ a, memGet m a = memGet m' a) → m = m'
  | [], [], _, _, _ => rfl
  | [], c :: m', _, _, h => by
    have := h c.1
    simp [memGet] at this
  | c :: m, [], _, _, h => by
    have := h c.1
    simp [memGet] at this
  | c :: m, c' :: m', h1, h2, h => by
    simp only [memWf, Bool.and_eq_true, decide_eq_true_eq] at h1 h2
    obtain ⟨⟨-, ha⟩, hm⟩ := h1
    obtain ⟨⟨-, ha'⟩, hm'⟩ := h2
    have hk : c.1 = c'.1 := by
      rcases Nat.lt_trichotomy c.1 c'.1 with hlt | heq | hgt
      · have e := h c.1
        simp [memGet, Nat.ne_of_gt hlt, memGet_eq_none_of_memAbove (Nat.le_of_lt hlt) ha'] at e
      · exact heq
      · have e := h c'.1
        simp [memGet, Nat.ne_of_gt hgt, memGet_eq_none_of_memAbove (Nat.le_of_lt hgt) ha] at e
    have hv : c.2 = c'.2 := by simpa [memGet, hk] using h c.1
    have ht : m = m' := by
      refine mem_ext hm hm' fun a => ?_
      by_cases hac : c.1 = a
      · rw [← hac, memGet_eq_none_of_memAbove (Nat.le_refl _) ha, hk,
          memGet_eq_none_of_memAbove (Nat.le_refl _) ha']
      · simpa [memGet, hac, hk ▸ hac] using h a
    rw [ht, Prod.ext hk hv]

/-! ### The machine's own memory -/

theorem State.pcSpan_pos (s : State) : 0 < s.pcSpan := by
  unfold State.pcSpan
  split <;> exact Nat.two_pow_pos _

theorem State.pcSpan_le (s : State) : s.pcSpan ≤ 2 ^ 64 := by
  unfold State.pcSpan
  split
  · exact Nat.le_refl _
  · exact Nat.pow_le_pow_right (by decide) (by decide)

theorem reset_mem_wf : memWf State.reset.mem = true := rfl

theorem placeCode_mem_wf (s : State) (bs : List Byte) (h : memWf s.mem = true) :
    memWf (s.placeCode bs).mem = true :=
  memWf_memSetBytes s.pcSpan_pos s.pcSpan_le bs s.mem _ h

theorem withFetchWord_mem_wf (s : State) (nbits w : Nat) (h : memWf s.mem = true) :
    memWf (s.withFetchWord nbits w).mem = true :=
  placeCode_mem_wf _ _ h

end Sys2Proof.Machine
end

