-- ==== Sys2Proof/Laws/PerInstr.lean ====
section
/-! SUPPORT. Laws.PerInstr: the families of statements made once per constructor of `Instr`. -/

namespace Sys2Proof.Laws.EncodedLength

/-- The encoder writes as many bytes as `Instr.len` counts (30_encoding.md R104). -/
def Statement (i : Instr) : Prop := (encode i).length = i.len

theorem formBytes_length (f : AddrForm) : f.bytes.length = f.len := by
  rcases f with ⟨_, _ | _ | _ | _⟩ | ⟨_, _, _, _ | _ | _ | _⟩ | _ | _ | _ | ⟨_, _ | _ | _ | _⟩ | _ <;> rfl

theorem encodeRM_length {k : Nat} (low : BitVec k → BitVec 3) (reg : BitVec 3) (src : RM k) :
    (encodeRM low reg src).length = src.len := by
  cases src with
  | reg r => rfl
  | mem o => simp [encodeRM, RM.len, formBytes_length, Nat.add_comm]

theorem encodeLegacy_length {k : Nat} (e : LegacyEnc) (el : Elem) (low : BitVec k → BitVec 3) (reg : BitVec 3) (src : RM k) :
    (encodeLegacy e el (encodeRM low reg src)).length = legacyLen e src := by
  rcases e with ⟨ps, _ | x⟩ <;> simp [encodeLegacy, legacyLen, encodeRM_length] <;> omega

theorem vexBytes_length (v : VexPrefix) (src1 : VecReg) (l : Bool) : (v.bytes src1 l).length = v.len := by
  cases v <;> rfl

theorem encodeVex_length (e : VexEnc) (src1 : VecReg) (l : Bool) (el : Elem) (reg : BitVec 3) (src2 : RM 4) :
    (encodeVex e src1 l el (encodeRM lowReg reg src2)).length = vexLen e src2 := by
  simp [encodeVex, vexLen, encodeRM_length, vexBytes_length]
  omega

theorem punpckhbwMm (e : LegacyEnc) (dst : MmReg) (src : RM 3) : Statement (.punpckhbwMm e dst src) :=
  encodeLegacy_length ..

theorem punpckhwdMm (e : LegacyEnc) (dst : MmReg) (src : RM 3) : Statement (.punpckhwdMm e dst src) :=
  encodeLegacy_length ..

theorem punpckhdqMm (e : LegacyEnc) (dst : MmReg) (src : RM 3) : Statement (.punpckhdqMm e dst src) :=
  encodeLegacy_length ..

theorem punpckhbwXmm (e : LegacyEnc) (dst : VecReg) (src : RM 4) : Statement (.punpckhbwXmm e dst src) :=
  encodeLegacy_length ..

theorem punpckhwdXmm (e : LegacyEnc) (dst : VecReg) (src : RM 4) : Statement (.punpckhwdXmm e dst src) :=
  encodeLegacy_length ..

theorem punpckhdqXmm (e : LegacyEnc) (dst : VecReg) (src : RM 4) : Statement (.punpckhdqXmm e dst src) :=
  encodeLegacy_length ..

theorem punpckhqdqXmm (e : LegacyEnc) (dst : VecReg) (src : RM 4) : Statement (.punpckhqdqXmm e dst src) :=
  encodeLegacy_length ..

theorem vpunpckhbwXmm (e : VexEnc) (dst src1 : VecReg) (src2 : RM 4) : Statement (.vpunpckhbwXmm e dst src1 src2) :=
  encodeVex_length ..

theorem vpunpckhwdXmm (e : VexEnc) (dst src1 : VecReg) (src2 : RM 4) : Statement (.vpunpckhwdXmm e dst src1 src2) :=
  encodeVex_length ..

theorem vpunpckhdqXmm (e : VexEnc) (dst src1 : VecReg) (src2 : RM 4) : Statement (.vpunpckhdqXmm e dst src1 src2) :=
  encodeVex_length ..

theorem vpunpckhqdqXmm (e : VexEnc) (dst src1 : VecReg) (src2 : RM 4) : Statement (.vpunpckhqdqXmm e dst src1 src2) :=
  encodeVex_length ..

theorem vpunpckhbwYmm (e : VexEnc) (dst src1 : VecReg) (src2 : RM 4) : Statement (.vpunpckhbwYmm e dst src1 src2) :=
  encodeVex_length ..

theorem vpunpckhwdYmm (e : VexEnc) (dst src1 : VecReg) (src2 : RM 4) : Statement (.vpunpckhwdYmm e dst src1 src2) :=
  encodeVex_length ..

theorem vpunpckhdqYmm (e : VexEnc) (dst src1 : VecReg) (src2 : RM 4) : Statement (.vpunpckhdqYmm e dst src1 src2) :=
  encodeVex_length ..

theorem vpunpckhqdqYmm (e : VexEnc) (dst src1 : VecReg) (src2 : RM 4) : Statement (.vpunpckhqdqYmm e dst src1 src2) :=
  encodeVex_length ..

end Sys2Proof.Laws.EncodedLength
end

