-- ==== Sys2Proof/Tests/Slice0.lean ====
section
/-! SUPPORT. Tests.Slice0: the model's own tests. Expected values are those of spec/95_test_vectors.md (the T numbers) and of the
worked encodings of 30_encoding.md R112. A `witness_…` theorem shows that the hypotheses of the obligation it names can be met. -/

namespace Sys2Proof.Tests

open Sys2Proof.Machine

-- One test after the other: many kernel evaluations at once would take a thread each.
set_option Elab.async false

/-! ### The start state S0 of 95_test_vectors.md, with the memory that the tests use -/

/-- Byte `k` of `ymm[i]` in S0. -/
def ymmByte (i k : Nat) : Nat := if k < 16 then 16 * i + k else 255 - (16 * i + (k - 16))

/-- A value from its bytes, number 0 lowest. -/
def fromBytes (w : Nat) (f : Nat → Nat) : Nat → BitVec w
  | 0 => 0#w
  | k + 1 => fromBytes w f k ||| (BitVec.ofNat w (f k) <<< (8 * k))

/-- Memory bytes `a mod 251` from address `a` on. -/
def bytesFrom (a : Nat) : Nat → List Host.Cell
  | 0 => []
  | n + 1 => (a, BitVec.ofNat 8 (a % 251)) :: bytesFrom (a + 1) n

/-- A flat segment. -/
def flat : SegReg := ⟨0x2B, 0, 0xFFFFFFFF, true⟩

/-- S0 in 64-bit mode. -/
def s0 : State :=
  { State.reset with
    mm := Vector.ofFn fun i => fromBytes 64 (fun k => 0x80 + 8 * i.val + k) 8
    ymm := Vector.ofFn fun i => fromBytes 256 (ymmByte i.val) 32
    x87Hi := Vector.ofFn fun i => BitVec.ofNat 16 (0x1230 + i.val)
    x87Status := 0x2800
    gpr := #v[0x1000, 0, 0, 0x100, 0x4000, 0x3040, 0x44, 0, 0x5008, 0, 0, 0, 0x2000, 4, 0, 0]
    rip := 0x400000
    cr0 := 0x60000011
    cr4 := 0x40200
    xcr0 := 7
    cpl := 3
    codeMode := .m64
    segs := ⟨flat, flat, flat, flat, flat, flat⟩
    mem := bytesFrom 0x1000 64 }

/-- S0 in 32-bit protected mode. -/
def s32 : State := { s0 with codeMode := .m32 }

/-- S0 in virtual-8086 mode. -/
def sV86 : State := { s0 with codeMode := .m16, rflags := 0x20002 }

/-- S0 in real-address mode. -/
def sReal : State := { s0 with codeMode := .m16, cr0 := 0x60000010 }

/-- The next state of an outcome, if it is one. -/
def nextOf : Result → Option State
  | .next t => some t
  | .fault _ => none
  | .refused _ => none

/-- The exception of an outcome, if it is a fault of the architecture. -/
def excOf : Result → Option Exc
  | .next _ => none
  | .fault f => f.exc?
  | .refused _ => none

/-- The refusal of an outcome, if it is one. -/
def refusalOf : Result → Option Refusal
  | .next _ => none
  | .fault _ => none
  | .refused r => some r

/-- No prefix, no REX. -/
def le : LegacyEnc := ⟨[], none⟩

/-- A 66 prefix. -/
def le66 : LegacyEnc := ⟨[.opSize], none⟩

/-- The two-byte VEX prefix. -/
def ve : VexEnc := ⟨[], .two false false⟩

/-- The memory operand [RAX]. -/
def atRax : MemOp := ⟨.ds, .a64, .base 0 .absent⟩

/-- The memory operand [RBP] through SS, with a zero displacement. -/
def atRbp : MemOp := ⟨.ss, .a64, .base 5 (.d8 0)⟩

/-- What an outcome leaves in an MMX register, in bits 79:64 of its x87 register, in TOS, the tag word and pc. -/
def mmxView (d : MmReg) (r : Result) : Option (BitVec 64 × BitVec 16 × BitVec 3 × BitVec 16 × BitVec 64) :=
  (nextOf r).map fun t => (t.readMm d, t.readX87Hi d, t.x87Tos, t.x87Tag, t.rip)

/-- What an outcome leaves in a YMM register and in pc. -/
def ymmView (d : VecReg) (r : Result) : Option (BitVec 256 × BitVec 64) :=
  (nextOf r).map fun t => (t.readYmm d, t.rip)

/-! ### Each form on registers (T63 to T96) -/

theorem test_T63 : mmxView 0 (exec (.punpckhbwMm le 0 (.reg 1)) s0) =
    some (0x8F878E868D858C84#64, 0xFFFF#16, 0#3, 0#16, 0x400003#64) := by decide +kernel

theorem test_T67 : mmxView 7 (exec (.punpckhwdMm le 7 (.reg 6)) s0) =
    some (0xB7B6BFBEB5B4BDBC#64, 0xFFFF#16, 0#3, 0#16, 0x400003#64) := by decide +kernel

theorem test_T68 : mmxView 3 (exec (.punpckhdqMm le 3 (.reg 3)) s0) =
    some (0x9F9E9D9C9F9E9D9C#64, 0xFFFF#16, 0#3, 0#16, 0x400003#64) := by decide +kernel

theorem test_T69 : ymmView 0 (exec (.punpckhbwXmm le66 0 (.reg 1)) s0) =
    some (0xF0F1F2F3F4F5F6F7F8F9FAFBFCFDFEFF1F0F1E0E1D0D1C0C1B0B1A0A19091808#256, 0x400004#64) := by decide +kernel

theorem test_T70 : ymmView 0 (exec (.punpckhwdXmm le66 0 (.reg 1)) s0) =
    some (0xF0F1F2F3F4F5F6F7F8F9FAFBFCFDFEFF1F1E0F0E1D1C0D0C1B1A0B0A19180908#256, 0x400004#64) := by decide +kernel

theorem test_T71 : ymmView 0 (exec (.punpckhdqXmm le66 0 (.reg 1)) s0) =
    some (0xF0F1F2F3F4F5F6F7F8F9FAFBFCFDFEFF1F1E1D1C0F0E0D0C1B1A19180B0A0908#256, 0x400004#64) := by decide +kernel

theorem test_T72 : ymmView 0 (exec (.punpckhqdqXmm le66 0 (.reg 1)) s0) =
    some (0xF0F1F2F3F4F5F6F7F8F9FAFBFCFDFEFF1F1E1D1C1B1A19180F0E0D0C0B0A0908#256, 0x400004#64) := by decide +kernel

theorem test_T81 : ymmView 1 (exec (.vpunpckhbwXmm ve 1 2 (.reg 3)) s0) =
    some (0x3F2F3E2E3D2D3C2C3B2B3A2A39293828#256, 0x400004#64) := by decide +kernel

theorem test_T82 : ymmView 1 (exec (.vpunpckhwdXmm ve 1 2 (.reg 3)) s0) =
    some (0x3F3E2F2E3D3C2D2C3B3A2B2A39382928#256, 0x400004#64) := by decide +kernel

theorem test_T87 : ymmView 1 (exec (.vpunpckhdqXmm ve 1 2 (.reg 0)) s0) =
    some (0x0F0E0D0C2F2E2D2C0B0A09082B2A2928#256, 0x400004#64) := by decide +kernel

theorem test_T84 : ymmView 1 (exec (.vpunpckhqdqXmm ve 1 2 (.reg 3)) s0) =
    some (0x3F3E3D3C3B3A39382F2E2D2C2B2A2928#256, 0x400004#64) := by decide +kernel

theorem test_T93 : ymmView 1 (exec (.vpunpckhbwYmm ve 1 2 (.reg 3)) s0) =
    some (0xC0D0C1D1C2D2C3D3C4D4C5D5C6D6C7D73F2F3E2E3D2D3C2C3B2B3A2A39293828#256, 0x400004#64) := by decide +kernel

theorem test_T94 : ymmView 1 (exec (.vpunpckhwdYmm ve 1 2 (.reg 3)) s0) =
    some (0xC0C1D0D1C2C3D2D3C4C5D4D5C6C7D6D73F3E2F2E3D3C2D2C3B3A2B2A39382928#256, 0x400004#64) := by decide +kernel

theorem test_T95 : ymmView 1 (exec (.vpunpckhdqYmm ve 1 2 (.reg 3)) s0) =
    some (0xC0C1C2C3D0D1D2D3C4C5C6C7D4D5D6D73F3E3D3C2F2E2D2C3B3A39382B2A2928#256, 0x400004#64) := by decide +kernel

theorem test_T96 : ymmView 3 (exec (.vpunpckhqdqYmm ve 3 2 (.reg 1)) s0) =
    some (0xE0E1E2E3E4E5E6E7D0D1D2D3D4D5D6D71F1E1D1C1B1A19182F2E2D2C2B2A2928#256, 0x400004#64) := by decide +kernel

/-! ### Each class on memory (T104, T107, T112, T115) -/

theorem test_T104 : mmxView 0 (exec (.punpckhbwMm le 0 (.mem atRax)) s0) =
    some (0x5787568655855484#64, 0xFFFF#16, 0#3, 0#16, 0x400003#64) := by decide +kernel

theorem test_T107 : ymmView 0 (exec (.punpckhbwXmm le66 0 (.mem atRax)) s0) =
    some (0xF0F1F2F3F4F5F6F7F8F9FAFBFCFDFEFF5F0F5E0E5D0D5C0C5B0B5A0A59095808#256, 0x400004#64) := by decide +kernel

theorem test_T112 : ymmView 0 (exec (.vpunpckhdqXmm ve 0 2 (.mem atRax)) s0) =
    some (0x5F5E5D5C2F2E2D2C5B5A59582B2A2928#256, 0x400004#64) := by decide +kernel

theorem test_T115 : ymmView 2 (exec (.vpunpckhdqYmm ve 2 0 (.mem atRax)) s0) =
    some (0x6F6E6D6CF0F1F2F36B6A6968F4F5F6F75F5E5D5C0F0E0D0C5B5A59580B0A0908#256, 0x400004#64) := by decide +kernel

/-! ### A whole step on bytes placed at pc (T63, T102) -/

theorem test_step_T63 : mmxView 0 (step (s0.placeCode [0x0F, 0x68, 0xC1])) =
    some (0x8F878E868D858C84#64, 0xFFFF#16, 0#3, 0#16, 0x400003#64) := by decide +kernel

theorem test_step_T102 : ymmView 8 (step (s0.placeCode [0xC4, 0x41, 0x35, 0x68, 0xC2])) =
    some (0x50605161526253635464556556665767AF9FAE9EAD9DAC9CAB9BAA9AA999A898#256, 0x400005#64) := by decide +kernel

/-! ### Every constructor's decoding, from words written out from the spec's encodings (T63 to T103, R112) -/

theorem test_decode_T63 : decode .m64 [0x0F, 0x68, 0xC1] =
    .ok (.punpckhbwMm le 0 (.reg 1), []) := rfl

theorem test_decode_T67 : decode .m32 [0x0F, 0x69, 0xFE] =
    .ok (.punpckhwdMm le 7 (.reg 6), []) := rfl

theorem test_decode_T105 : decode .m64 [0x0F, 0x6A, 0x18] =
    .ok (.punpckhdqMm le 3 (.mem atRax), []) := rfl

theorem test_decode_T106 : decode .m32 [0x67, 0x0F, 0x69, 0x08] =
    .ok (.punpckhwdMm ⟨[.addrSize], none⟩ 1 (.mem ⟨.ds, .a16, .regs16 0 .absent⟩), []) := rfl

theorem test_decode_T77 : decode .m64 [0x66, 0x44, 0x0F, 0x68, 0xC1] =
    .ok (.punpckhbwXmm ⟨[.opSize], some ⟨false, true, false, false⟩⟩ 8 (.reg 1), []) := rfl

theorem test_decode_T109 : decode .m64 [0x66, 0x0F, 0x69, 0x55, 0xE0] =
    .ok (.punpckhwdXmm le66 2 (.mem ⟨.ss, .a64, .base 5 (.d8 0xE0)⟩), []) := rfl

theorem test_decode_T111 : decode .m32 [0x66, 0x0F, 0x6A, 0x1D, 0x00, 0x10, 0x00, 0x00] =
    .ok (.punpckhdqXmm le66 3 (.mem ⟨.ds, .a32, .abs32 0x1000⟩), []) := rfl

theorem test_decode_T110 : decode .m32 [0x66, 0x0F, 0x68, 0x8C, 0x73, 0x78, 0x56, 0x34, 0x12] =
    .ok (.punpckhbwXmm le66 1 (.mem ⟨.ds, .a32, .sib 3 6 1 (.d32 0x12345678)⟩), []) := rfl

theorem test_decode_T108 : decode .m64 [0x66, 0x47, 0x0F, 0x6D, 0x7C, 0xAC, 0x10] =
    .ok (.punpckhqdqXmm ⟨[.opSize], some ⟨false, true, true, true⟩⟩ 15
      (.mem ⟨.ds, .a64, .sib 12 13 2 (.d8 0x10)⟩), []) := rfl

theorem test_decode_T81 : decode .m32 [0xC5, 0xE9, 0x68, 0xCB] =
    .ok (.vpunpckhbwXmm ve 1 2 (.reg 3), []) := rfl

theorem test_decode_T90 : decode .m64 [0xC4, 0x41, 0x31, 0x69, 0xC2] =
    .ok (.vpunpckhwdXmm ⟨[], .three false true false true true⟩ 8 9 (.reg 10), []) := rfl

theorem test_decode_T113 : decode .m64 [0xC5, 0x81, 0x6A, 0x44, 0x24, 0x08] =
    .ok (.vpunpckhdqXmm ⟨[], .two false true⟩ 0 15
      (.mem ⟨.ss, .a64, .sib 4 4 0 (.d8 8)⟩), []) := rfl

theorem test_decode_T114 : decode .m64 [0xC4, 0xC1, 0x71, 0x6D, 0x08] =
    .ok (.vpunpckhqdqXmm ⟨[], .three false false false true false⟩ 1 1
      (.mem ⟨.ds, .a64, .base 8 .absent⟩), []) := rfl

theorem test_decode_T116 : decode .m64 [0xC5, 0xED, 0x68, 0x0D, 0x00, 0x01, 0x00, 0x00] =
    .ok (.vpunpckhbwYmm ve 1 2 (.mem ⟨.ds, .a64, .ripRel 0x100⟩), []) := rfl

theorem test_decode_T94 : decode .m32 [0xC5, 0xED, 0x69, 0xCB] =
    .ok (.vpunpckhwdYmm ve 1 2 (.reg 3), []) := rfl

theorem test_decode_T115 : decode .m64 [0xC5, 0xFD, 0x6A, 0x10] =
    .ok (.vpunpckhdqYmm ve 2 0 (.mem atRax), []) := rfl

theorem test_decode_T101 : decode .m64 [0xC4, 0xE1, 0xED, 0x6D, 0xD9] =
    .ok (.vpunpckhqdqYmm ⟨[], .three true false false false false⟩ 3 2 (.reg 1), []) := rfl

theorem test_table_row_mmx : decodeTableWord 24 0xC1680F = some (.punpckhbwMm le 0 (.reg 1)) := rfl

theorem test_table_row_vex256 : decodeTableWord 24 0x68EDC5 =
    some (.vpunpckhbwYmm ve 0 2 (.mem atRax)) := rfl

/-! ### Well-formedness: a well-formed term, and for each check a term it refuses -/

theorem test_wf_ok : (Instr.punpckhbwXmm le66 1 (.mem atRbp)).wf .m64 = true := rfl

theorem test_ill_repeated_prefix : (Instr.punpckhbwMm ⟨[.addrSize, .addrSize], none⟩ 0 (.reg 1)).wf .m64 = false := rfl

theorem test_ill_two_overrides : (Instr.punpckhbwMm ⟨[.seg .fs, .seg .gs], none⟩ 0 (.reg 1)).wf .m64 = false := rfl

theorem test_ill_mmx_with_66 : (Instr.punpckhbwMm le66 0 (.reg 1)).wf .m64 = false := rfl

theorem test_ill_sse_without_66 : (Instr.punpckhbwXmm le 0 (.reg 1)).wf .m64 = false := rfl

theorem test_ill_lock : (Instr.punpckhbwMm ⟨[.lock], none⟩ 0 (.reg 1)).wf .m64 = false := rfl

theorem test_ill_repne : (Instr.punpckhbwMm ⟨[.repne], none⟩ 0 (.reg 1)).wf .m64 = false := rfl

theorem test_ill_rep : (Instr.punpckhbwMm ⟨[.rep], none⟩ 0 (.reg 1)).wf .m64 = false := rfl

theorem test_ill_rex_in_m32 : (Instr.punpckhbwMm ⟨[], some ⟨false, false, false, false⟩⟩ 0 (.reg 1)).wf .m32 = false := rfl

theorem test_ill_ignored_rex_in_m32 :
    (Instr.punpckhbwXmm ⟨[.rex ⟨false, false, false, false⟩, .opSize], none⟩ 0 (.reg 1)).wf .m32 = false := rfl

theorem test_ill_ignored_rex_last :
    (Instr.punpckhbwXmm ⟨[.opSize, .rex ⟨false, false, false, false⟩], none⟩ 0 (.reg 1)).wf .m64 = false := rfl

theorem test_ill_two_rex :
    (Instr.punpckhbwXmm ⟨[.rex ⟨false, false, false, false⟩, .opSize], some ⟨false, false, false, false⟩⟩ 0 (.reg 1)).wf
      .m64 = false := rfl

theorem test_ill_ignored_rex_before_vex :
    (Instr.vpunpckhbwXmm ⟨[.rex ⟨false, false, false, false⟩, .addrSize], .two false false⟩ 1 2 (.reg 3)).wf .m64 = false := rfl

theorem test_ill_sse_dst_8_without_rex : (Instr.punpckhbwXmm le66 8 (.reg 1)).wf .m64 = false := rfl

theorem test_ill_sse_src_9_without_rex : (Instr.punpckhbwXmm le66 1 (.reg 9)).wf .m64 = false := rfl

theorem test_ill_66_before_vex : (Instr.vpunpckhbwXmm ⟨[.opSize], .two false false⟩ 1 2 (.reg 3)).wf .m64 = false := rfl

theorem test_ill_vex_r_in_m32 : (Instr.vpunpckhbwXmm ⟨[], .two true false⟩ 9 2 (.reg 3)).wf .m32 = false := rfl

theorem test_ill_vex_x_in_m32 : (Instr.vpunpckhbwXmm ⟨[], .three false false true false false⟩ 1 2 (.reg 3)).wf .m32 = false := rfl

theorem test_ill_vex_b_in_m32 :
    (Instr.vpunpckhbwXmm ⟨[], .three false false false true false⟩ 1 2 (.reg 11)).wf .m32 = false := rfl

theorem test_ill_vvvv_top_bit_in_m32 : (Instr.vpunpckhbwXmm ⟨[], .two false true⟩ 1 2 (.reg 3)).wf .m32 = false := rfl

theorem test_ill_vex_dst_8_without_r : (Instr.vpunpckhbwXmm ve 8 2 (.reg 3)).wf .m64 = false := rfl

theorem test_ill_vex_src1_8_without_v3 : (Instr.vpunpckhbwXmm ve 1 8 (.reg 3)).wf .m64 = false := rfl

theorem test_ill_vex_src2_8_without_b : (Instr.vpunpckhbwXmm ve 1 2 (.reg 8)).wf .m64 = false := rfl

theorem test_ill_disp16_in_64 : (Instr.punpckhbwMm le 0 (.mem ⟨.ds, .a64, .base 0 (.d16 1)⟩)).wf .m64 = false := rfl

theorem test_ill_disp32_in_16 : (Instr.punpckhbwMm le 0 (.mem ⟨.ds, .a16, .regs16 0 (.d32 1)⟩)).wf .m16 = false := rfl

theorem test_ill_base_4 : (Instr.punpckhbwMm le 0 (.mem ⟨.ss, .a64, .base 4 .absent⟩)).wf .m64 = false := rfl

theorem test_ill_base_5_without_disp : (Instr.punpckhbwMm le 0 (.mem ⟨.ss, .a64, .base 5 .absent⟩)).wf .m64 = false := rfl

theorem test_ill_base_8_without_b : (Instr.punpckhbwMm le 0 (.mem ⟨.ds, .a64, .base 8 .absent⟩)).wf .m64 = false := rfl

theorem test_ill_sib_base_5_without_disp : (Instr.punpckhbwMm le 0 (.mem ⟨.ss, .a64, .sib 5 0 0 .absent⟩)).wf .m64 = false := rfl

theorem test_ill_sib_index_8_without_x : (Instr.punpckhbwMm le 0 (.mem ⟨.ds, .a64, .sib 0 8 0 .absent⟩)).wf .m64 = false := rfl

theorem test_ill_sib_no_base_index_8 : (Instr.punpckhbwMm le 0 (.mem ⟨.ds, .a64, .sibNoBase 8 0 0⟩)).wf .m64 = false := rfl

theorem test_ill_abs32_in_m64 : (Instr.punpckhbwMm le 0 (.mem ⟨.ds, .a64, .abs32 0⟩)).wf .m64 = false := rfl

theorem test_ill_rip_relative_in_m32 : (Instr.punpckhbwMm le 0 (.mem ⟨.ds, .a32, .ripRel 0⟩)).wf .m32 = false := rfl

theorem test_ill_regs16_in_m64 : (Instr.punpckhbwMm le 0 (.mem ⟨.ds, .a64, .regs16 0 .absent⟩)).wf .m64 = false := rfl

theorem test_ill_regs16_6_without_disp : (Instr.punpckhbwMm le 0 (.mem ⟨.ds, .a16, .regs16 6 .absent⟩)).wf .m16 = false := rfl

theorem test_ill_abs16_in_m64 : (Instr.punpckhbwMm le 0 (.mem ⟨.ds, .a64, .abs16 0⟩)).wf .m64 = false := rfl

theorem test_ill_address_size : (Instr.punpckhbwMm le 0 (.mem ⟨.ds, .a32, .base 0 .absent⟩)).wf .m64 = false := rfl

theorem test_ill_segment : (Instr.punpckhbwMm le 0 (.mem ⟨.fs, .a64, .base 0 .absent⟩)).wf .m64 = false := rfl

theorem test_ill_ignored_override : (Instr.punpckhbwMm ⟨[.seg .es], none⟩ 0 (.mem ⟨.es, .a64, .base 0 .absent⟩)).wf .m64 = false := rfl


/-! ### Witnesses: step and reset -/

/-- S0 with bytes at pc. -/
def at0 (bs : List Byte) : State := s0.placeCode bs

theorem witness_StepRunsDecodedInstruction :
    (Instr.punpckhbwMm le 0 (.reg 1)).wf (at0 [0x0F, 0x68, 0xC1]).codeMode = true ∧
      Runs (at0 [0x0F, 0x68, 0xC1]) (.punpckhbwMm le 0 (.reg 1)) :=
  ⟨rfl, [], by rfl⟩

theorem witness_StepWithoutInstruction_invalid :
    decode (at0 [0xF0, 0x0F, 0x68, 0xC1]).codeMode (at0 [0xF0, 0x0F, 0x68, 0xC1]).fetchBytes = .error .invalidOpcode := rfl

theorem witness_StepWithoutInstruction_repeated :
    decode (at0 [0x66, 0x66, 0x0F, 0x68, 0xC1]).codeMode (at0 [0x66, 0x66, 0x0F, 0x68, 0xC1]).fetchBytes =
      .error .repeatedPrefix := rfl

theorem witness_StepWithoutInstruction_notOnPage :
    decode (at0 [0x0F, 0x6B, 0xC1]).codeMode (at0 [0x0F, 0x6B, 0xC1]).fetchBytes = .error .notOnPage := rfl

theorem witness_StepWithoutInstruction_needs66 :
    decode (at0 [0x0F, 0x6D, 0xC1]).codeMode (at0 [0x0F, 0x6D, 0xC1]).fetchBytes = .error .needs66 := rfl

theorem witness_StepWithoutInstruction_vexB :
    decode (s32.placeCode [0xC4, 0xC1, 0x71, 0x6D, 0xC8]).codeMode
      (s32.placeCode [0xC4, 0xC1, 0x71, 0x6D, 0xC8]).fetchBytes = .error .vexBOutside64 := rfl

theorem witness_StepWithoutInstruction_unreadable :
    decode (at0 [0x0F, 0x68]).codeMode (at0 [0x0F, 0x68]).fetchBytes = .error .truncated ∧
      (at0 [0x0F, 0x68]).rip.toNat + (at0 [0x0F, 0x68]).fetchBytes.length < (at0 [0x0F, 0x68]).pcSpan := by decide +kernel

/-- An instruction whose last fetched byte is the last byte of the address space. -/
def atTop : State := { s0 with rip := 0xFFFFFFFFFFFFFFFE }.placeCode [0x0F, 0x68]

theorem witness_StepWithoutInstruction_pastTop :
    decode atTop.codeMode atTop.fetchBytes = .error .truncated ∧
      atTop.pcSpan ≤ atTop.rip.toNat + atTop.fetchBytes.length := by decide +kernel

theorem test_past_top : refusalOf (step atTop) = some .runsPastTop := by decide +kernel

theorem witness_UnlistedCodeRefused :
    s0.rip.toNat < s0.pcSpan ∧ s0.byteAt (s0.linear .cs s0.rip 0) = none := by decide +kernel

theorem witness_ResetUsability :
    ((Instr.punpckhbwMm le 0 (.reg 1)).cls = .mmx ∧ (Instr.punpckhbwMm le 0 (.reg 1)).mem? = none) ∧
      (Instr.punpckhbwXmm le66 0 (.reg 1)).cls ≠ .mmx := by decide

theorem witness_StepKeepsInvariant : Inv (at0 [0x0F, 0x68, 0xC1]) ∧ ∃ t, step (at0 [0x0F, 0x68, 0xC1]) = .next t :=
  ⟨⟨by decide +kernel, by decide +kernel, by decide +kernel⟩, _, rfl⟩

theorem witness_PlacedWordRuns :
    s0.rip.toNat + 15 ≤ 2 ^ 47 ∧ s0.regions = [] ∧ decodeTableWord 24 0xC1680F = some (.punpckhbwMm le 0 (.reg 1)) := by
  decide +kernel

theorem test_fetchWord : mmxView 0 (step (s0.withFetchWord 24 0xC1680F)) =
    some (0x8F878E868D858C84#64, 0xFFFF#16, 0#3, 0#16, 0x400003#64) := by decide +kernel

/-! ### Witnesses: decoding -/

theorem witness_DecodeOfEncode : (Instr.vpunpckhqdqYmm ⟨[.addrSize, .seg .gs], .three true true true true true⟩ 15 15
    (.mem ⟨.gs, .a32, .sib 15 15 3 (.d32 0xFFFFFFFF)⟩)).wf .m64 = true := rfl

theorem witness_EncodeOfDecode : decode .m64 [0x66, 0x0F, 0x6D, 0xC0, 0x90] = .ok (.punpckhqdqXmm le66 0 (.reg 0), [0x90]) := rfl

/-- The longest encoding: 67, a segment override, a three-byte VEX prefix, SIB and disp32. -/
theorem witness_DecodedLengths :
    decode .m64 [0x67, 0x64, 0xC4, 0xE1, 0x6D, 0x68, 0x84, 0x88, 1, 0, 0, 0] =
      .ok (.vpunpckhbwYmm ⟨[.addrSize, .seg .fs], .three false false false false false⟩ 0 2
        (.mem ⟨.fs, .a32, .sib 0 1 2 (.d32 1)⟩), []) ∧
    (Instr.vpunpckhbwYmm ⟨[.addrSize, .seg .fs], .three false false false false false⟩ 0 2
        (.mem ⟨.fs, .a32, .sib 0 1 2 (.d32 1)⟩)).cls ≠ .mmx := ⟨rfl, by decide⟩

theorem witness_PrefixBeforeVexInvalid :
    (PrefixRun .m32 [.opSize] none ∧ (CodeMode.m32 = .m64 ∨ fieldHi 0xE9#8 = 3#2) ∧ Pfx.opSize ∈ [Pfx.opSize]) ∧
    (PrefixRun .m64 [] (some ⟨false, false, false, false⟩) ∧ (CodeMode.m64 = .m64 ∨ fieldHi 0x41#8 = 3#2)) ∧
    (PrefixRun .m64 [.rex ⟨false, true, false, false⟩, .addrSize] none ∧
      [Pfx.rex ⟨false, true, false, false⟩, Pfx.addrSize].any Pfx.isRex = true) := by simp [PrefixRun]; decide

theorem witness_LockPrefixInvalid :
    PrefixRun .m16 [.opSize, .lock] none ∧
      Pfx.lock ∈ [Pfx.opSize, Pfx.lock] ∧ Pfx.repne ∉ [Pfx.opSize, Pfx.lock] ∧ Pfx.rep ∉ [Pfx.opSize, Pfx.lock] := by
  simp [PrefixRun]; decide

theorem witness_NeighbourEncodingsRefused :
    (PrefixRun .m32 [.addrSize] none ∧ Pfx.opSize ∉ [Pfx.addrSize] ∧ Pfx.lock ∉ [Pfx.addrSize] ∧
      Pfx.repne ∉ [Pfx.addrSize] ∧ Pfx.rep ∉ [Pfx.addrSize] ∧ [Pfx.addrSize].any Pfx.isRex = false) ∧
    (PrefixRun .m32 [.rep] none ∧ Pfx.rep ∈ [Pfx.rep]) ∧
    ((CodeMode.m32 = .m64 ∨ fieldHi 0xE8#8 = 3#2) ∧ (0xE8#8).extractLsb' 0 2 ≠ 1#2) ∧
    ((CodeMode.m32 = .m64 ∨ fieldHi 0xE2#8 = 3#2) ∧ ((0xE2#8).extractLsb' 0 5 ≠ 1#5 ∨ (0x79#8).extractLsb' 0 2 ≠ 1#2)) ∧
    ((CodeMode.m32 = .m64 ∨ fieldHi 0xE1#8 = 3#2) ∧ ((0xE1#8).extractLsb' 0 5 ≠ 1#5 ∨ (0x78#8).extractLsb' 0 2 ≠ 1#2)) ∧
    (CodeMode.m32 ≠ .m64 ∧ fieldHi 0xC1#8 = 3#2 ∧ (0xC1#8).extractLsb' 0 5 = 1#5 ∧ (0x71#8).extractLsb' 0 2 = 1#2 ∧
      (0xC1#8).getLsbD 5 = false) := by
  simp only [PrefixRun]; decide

theorem witness_RepeatedPrefixRefused :
    ([Pfx.opSize, Pfx.opSize].any Pfx.isRex = false ∧ Pfx.opSize = Pfx.opSize) ∧
      (∃ g h : Seg, Pfx.seg .es = .seg g ∧ Pfx.seg .fs = .seg h) ∧
      ∃ g h : Rex, Pfx.rex ⟨false, false, false, false⟩ = .rex g ∧ Pfx.rex ⟨false, true, false, false⟩ = .rex h :=
  ⟨⟨rfl, rfl⟩, ⟨.es, .fs, rfl, rfl⟩, _, _, rfl, rfl⟩

theorem witness_RexBeforePrefixIgnored :
    [Pfx.opSize] ≠ [] ∧ [Pfx.addrSize].any Pfx.isRex = false ∧ [Pfx.opSize].any Pfx.isRex = false := by decide

/-- R92: the REX byte 44 stands before 66 and is ignored, so the destination is XMM0 and not XMM8. -/
theorem test_decode_ignored_rex : decode .m64 [0x44, 0x66, 0x0F, 0x68, 0xC1] =
    .ok (.punpckhbwXmm ⟨[.rex ⟨false, true, false, false⟩, .opSize], none⟩ 0 (.reg 1), []) := rfl

theorem test_step_ignored_rex : ymmView 0 (step (s0.placeCode [0x44, 0x66, 0x0F, 0x68, 0xC1])) =
    (ymmView 0 (exec (.punpckhbwXmm le66 0 (.reg 1)) s0)).map fun v => (v.1, 0x400005#64) := by decide +kernel

/-- T172 (R94): outside 64-bit mode bit 3 of vvvv' of a three-byte prefix is ignored. -/
theorem test_decode_T172 : decode .m32 [0xC4, 0xE1, 0x29, 0x68, 0xCB] =
    .ok (.vpunpckhbwXmm ⟨[], .three false false false false true⟩ 1 2 (.reg 3), []) := rfl

theorem witness_VexPrefixFields : CodeMode.m16 ≠ .m64 ∧ CodeMode.m32 ≠ .m64 := by decide

theorem witness_LegacyRegisterFields :
    mmxInstr ⟨[], some ⟨true, true, true, true⟩⟩ 7 (.reg 7) .dword =
      some (.punpckhdqMm ⟨[], some ⟨true, true, true, true⟩⟩ 7 (.reg 7)) := rfl

theorem witness_LowRegistersOutside64 :
    decode .m32 [0xC5, 0xC5, 0x68, 0xFF] = .ok (.vpunpckhbwYmm ve 7 7 (.reg 7), []) ∧
      (7 : VecReg) ∈ vecRegs (.vpunpckhbwYmm ve 7 7 (.reg 7)) := ⟨rfl, by decide⟩

/-! ### Witnesses: addresses and segments -/

theorem witness_EffectiveAddress : (5 : GenReg) ≠ 4#4 ∧ (12 : GenReg) ≠ 4#4 := by decide

theorem witness_SegmentChoice_override :
    prefixOf .m64 0x0F = none ∧
      decode .m64 (prefixBytes [.seg .fs] none ++ 0x0F#8 :: [0x68, 0x00]) =
        .ok (.punpckhbwMm ⟨[.seg .fs], none⟩ 0 (.mem ⟨.fs, .a64, .base 0 .absent⟩), []) ∧
      Pfx.seg .fs ∈ [Pfx.seg .fs] := ⟨rfl, rfl, by decide⟩

theorem witness_SegmentChoice_stack :
    decode .m64 (prefixBytes [.addrSize] none ++ 0x0F#8 :: [0x68, 0x45, 0x00]) =
        .ok (.punpckhbwMm ⟨[.addrSize], none⟩ 0 (.mem ⟨.ss, .a32, .base 5 (.d8 0)⟩), []) ∧
      (∀ g : Seg, Pfx.seg g ∉ [Pfx.addrSize]) ∧ AddrSize.a32 ≠ .a16 := ⟨rfl, by simp, by decide⟩

theorem witness_SegmentChoice_ignored_override :
    prefixOf .m64 0x0F = none ∧
      decode .m64 (prefixBytes [.seg .ss] none ++ 0x0F#8 :: [0x68, 0x00]) =
        .ok (.punpckhbwMm ⟨[.seg .ss], none⟩ 0 (.mem ⟨.ds, .a64, .base 0 .absent⟩), []) ∧
      ∀ g : Seg, Pfx.seg g ∈ [Pfx.seg .ss] → CodeMode.m64 = .m64 ∧ g ≠ .fs ∧ g ≠ .gs :=
  ⟨rfl, rfl, fun g h => by simp at h; simp [h]⟩

theorem witness_SegmentChoice_ignored_ds :
    decode .m64 (prefixBytes [.seg .ds] (some ⟨false, false, false, false⟩) ++ 0x0F#8 :: [0x68, 0x45, 0x00]) =
      .ok (.punpckhbwMm ⟨[.seg .ds], some ⟨false, false, false, false⟩⟩ 0 (.mem ⟨.ss, .a64, .base 5 (.d8 0)⟩), []) := rfl

theorem witness_SegmentChoice_bp16 :
    decode .m16 (prefixBytes [] none ++ 0x0F#8 :: [0x68, 0x46, 0x00]) =
      .ok (.punpckhbwMm le 0 (.mem ⟨.ss, .a16, .regs16 6 (.d8 0)⟩), []) := rfl

theorem witness_SegmentChoice_abs16 :
    decode .m16 (prefixBytes [] none ++ 0x0F#8 :: [0x68, 0x06, 0x00, 0x10]) =
      .ok (.punpckhbwMm le 0 (.mem ⟨.ds, .a16, .abs16 0x1000⟩), []) := rfl

theorem witness_SegmentChoice_m32 :
    decode .m32 (prefixBytes [.seg .es] none ++ 0x0F#8 :: [0x68, 0x00]) =
      .ok (.punpckhbwMm ⟨[.seg .es], none⟩ 0 (.mem ⟨.es, .a32, .base 0 .absent⟩), []) := rfl

theorem witness_SegmentChoice_m16 :
    decode .m16 (prefixBytes [] none ++ 0x0F#8 :: [0x68, 0x00]) =
      .ok (.punpckhbwMm le 0 (.mem ⟨.ds, .a16, .regs16 0 .absent⟩), []) := rfl

theorem witness_SegmentCheck :
    sReal.opMode = .real ∧ sV86.opMode = .v86 ∧ s32.opMode = .prot ∧ s0.opMode = .long := by decide

/-- The last byte of a real-address segment is in it, the byte after it is not. -/
theorem test_segment_edge : sReal.segOk .ds 0xFFF8 8 = true ∧ sReal.segOk .ds 0xFFF9 8 = false ∧
    s32.segOk .ds 0xFFFFFFF8 8 = true ∧ s0.segOk .ds 0x00007FFFFFFFFFF8 8 = true ∧
    s0.segOk .ds 0x00007FFFFFFFFFF9 8 = false ∧ s0.segOk .ds 0xFFFF800000000000 8 = true := by decide +kernel

/-! ### Witnesses: the fifteen forms -/

theorem witness_MmxRegisterForms : ∀ el, FormUsable .mmx el s0 none := fun _ => .inl ⟨rfl, rfl, rfl, rfl, rfl⟩

theorem witness_SseRegisterForms : ∀ el, FormUsable .sse el s0 none := fun _ => .inl ⟨rfl, rfl, rfl, rfl, rfl⟩

theorem witness_Vex128RegisterForms : ∀ el, FormUsable .vex128 el s0 none := fun _ => .inl ⟨rfl, rfl, rfl, rfl, rfl, rfl⟩

theorem witness_Vex256RegisterForms : ∀ el, FormUsable .vex256 el s0 none := fun _ => .inl ⟨rfl, rfl, rfl, rfl, rfl, rfl⟩

/-- A decidable form of the byte-by-byte conditions of `OperandOk`. -/
theorem operandOk_of (s : State) (c : Cls) (o : MemOp) (len : Nat)
    (h1 : s.segPass o.seg (s.effAddr len o) (operandSize c) = true)
    (h2 : (s.effAddr len o).toNat + operandSize c ≤ addrSpan o.asz)
    (h3 : (s.effAddr len o).toNat % boundary s c = 0)
    (h4 : ∀ k : Nat, k < operandSize c → s.fetchStart (operandSize c) ≤ k →
      s.byteStop (s.linear o.seg (s.effAddr len o) k) = none)
    (h5 : s.acEnabled = false)
    (h6 : ∀ k : Nat, k < operandSize c → s.isDevice (s.linear o.seg (s.effAddr len o) k) = false) :
    OperandOk s c o len :=
  ⟨h1, h2, h3, fun k a b => h4 k b a, fun h => by simp [AcFails, h5] at h, h6⟩

theorem witness_MmxMemoryForms :
    3 = (Instr.punpckhbwMm le 0 (.mem atRax)).len ∧ (∀ el, FormUsable .mmx el s0 (some (.ds, s0.effAddr 3 atRax))) ∧
      OperandOk s0 .mmx atRax 3 :=
  ⟨rfl, fun _ => .inl ⟨rfl, rfl, rfl, rfl, rfl⟩, operandOk_of _ _ _ _ (by decide +kernel) (by decide +kernel) (by decide +kernel)
    (by decide +kernel) (by decide +kernel) (by decide +kernel)⟩

theorem witness_SseMemoryForms :
    4 = (Instr.punpckhbwXmm le66 0 (.mem atRax)).len ∧ (∀ el, FormUsable .sse el s0 (some (.ds, s0.effAddr 4 atRax))) ∧
      OperandOk s0 .sse atRax 4 :=
  ⟨rfl, fun _ => .inl ⟨rfl, rfl, rfl, rfl, rfl⟩, operandOk_of _ _ _ _ (by decide +kernel) (by decide +kernel) (by decide +kernel)
    (by decide +kernel) (by decide +kernel) (by decide +kernel)⟩

/-- S0 with FETCH_HALF and only the upper half of the operand in memory. -/
def sHalf : State := { s0 with params := ⟨false, true, .table⟩, mem := bytesFrom 0x1008 8 }

theorem witness_SseMemoryForms_half :
    4 = (Instr.punpckhbwXmm le66 0 (.mem atRax)).len ∧ (∀ el, FormUsable .sse el sHalf (some (.ds, sHalf.effAddr 4 atRax))) ∧
      OperandOk sHalf .sse atRax 4 :=
  ⟨rfl, fun _ => .inl ⟨rfl, rfl, rfl, rfl, rfl⟩, operandOk_of _ _ _ _ (by decide +kernel) (by decide +kernel) (by decide +kernel)
    (by decide +kernel) (by decide +kernel) (by decide +kernel)⟩

/-- S0 with RAX off every boundary. -/
def sOdd : State := { s0 with gpr := s0.gpr.set 0 0x1001 }

theorem witness_Vex128MemoryForms :
    4 = (Instr.vpunpckhbwXmm ve 0 2 (.mem atRax)).len ∧ (∀ el, FormUsable .vex128 el sOdd (some (.ds, sOdd.effAddr 4 atRax))) ∧
      OperandOk sOdd .vex128 atRax 4 :=
  ⟨rfl, fun _ => .inl ⟨rfl, rfl, rfl, rfl, rfl, rfl⟩, operandOk_of _ _ _ _ (by decide +kernel) (by decide +kernel) (by decide +kernel)
    (by decide +kernel) (by decide +kernel) (by decide +kernel)⟩

/-- S0 with VEX_ALIGN_ENFORCED. -/
def sStrict : State := { s0 with params := ⟨true, false, .table⟩ }

theorem witness_Vex256MemoryForms :
    4 = (Instr.vpunpckhbwYmm ve 0 2 (.mem atRax)).len ∧ (∀ el, FormUsable .vex256 el sStrict (some (.ds, sStrict.effAddr 4 atRax))) ∧
      OperandOk sStrict .vex256 atRax 4 :=
  ⟨rfl, fun _ => .inl ⟨rfl, rfl, rfl, rfl, rfl, rfl⟩, operandOk_of _ _ _ _ (by decide +kernel) (by decide +kernel) (by decide +kernel)
    (by decide +kernel) (by decide +kernel) (by decide +kernel)⟩

/-! ### Witnesses: faults -/

/-- S0 on a processor without any of the four features. -/
def sBare : State := { s0 with features := ⟨false, false, false, false⟩ }

theorem witness_FeatureAbsentInvalid :
    sBare.features.mmx = false ∧ sBare.features.sse2 = false ∧ sBare.features.avx = false ∧
      sBare.features.avx2 = false := by decide

/-- S0 with CR0.TS = 1. -/
def sTs : State := { s0 with cr0 := 0x60000019 }

/-- S0 with CR0.EM = 1. -/
def sEm : State := { s0 with cr0 := 0x60000015 }

/-- S0 with a pending x87 exception. -/
def sEs : State := { s0 with x87Status := 0x80 }

theorem witness_UsableOrder_mmx :
    (sEm.em = true) ∧ (sTs.features.mmx = true ∧ sTs.em = false ∧ sTs.ts = true) ∧
      (sEs.features.mmx = true ∧ sEs.em = false ∧ sEs.ts = false ∧ sEs.x87Es = true) := by decide

theorem witness_UsableOrder_sse :
    { s0 with cr4 := 0x40000 }.osfxsr = false ∧
      (sTs.features.sse2 = true ∧ sTs.em = false ∧ sTs.osfxsr = true ∧ sTs.ts = true) := by decide

theorem witness_UsableOrder_vex :
    (sReal.vexModeOk = false ∧ { s0 with cr4 := 0x200 }.osxsave = false ∧ { s0 with xcr0 := 3 }.avxState = false ∧
      { s0 with xcr0 := 5 }.avxState = false) ∧
    (sTs.vexModeOk = true ∧ sTs.features.avx = true ∧ sTs.features.avx2 = true ∧ sTs.osxsave = true ∧
      sTs.avxState = true ∧ sTs.ts = true) := by decide

theorem witness_UsableOrder_passes : FormUsable .sse .byte sOdd (operandAt (.punpckhbwXmm le66 0 (.mem atRax)) sOdd) ∧
    excOf (exec (.punpckhbwXmm le66 0 (.mem atRax)) sOdd) = some .gp :=
  ⟨.inl ⟨rfl, rfl, rfl, rfl, rfl⟩, by decide +kernel⟩

/-- S0 with RAX at the first non-canonical byte less 7, and RBP the same. -/
def sNonCanonical : State := { s0 with gpr := (s0.gpr.set 0 0x00007FFFFFFFFFF9).set 5 0x00007FFFFFFFFFF9 }

theorem witness_MemoryFaultOrder_segment :
    FormUsable .mmx .byte sNonCanonical (some (.ds, sNonCanonical.effAddr 3 atRax)) ∧
      sNonCanonical.segPass .ds (sNonCanonical.effAddr 3 atRax) 8 = false ∧
      sNonCanonical.segPass .ss (sNonCanonical.effAddr 4 atRbp) 8 = false :=
  ⟨.inl ⟨rfl, rfl, rfl, rfl, rfl⟩, by decide +kernel, by decide +kernel⟩

theorem test_segment_faults :
    excOf (exec (.punpckhbwMm le 0 (.mem atRax)) sNonCanonical) = some .gp ∧
      excOf (exec (.punpckhbwMm le 0 (.mem atRbp)) sNonCanonical) = some .ss := by decide +kernel

/-- S0 with RAX 7 bytes below the top of the address space. -/
def sWrap : State := { s0 with gpr := s0.gpr.set 0 0xFFFFFFFFFFFFFFF9 }

theorem witness_MemoryFaultOrder_pastEnd :
    FormUsable .mmx .byte sWrap (some (.ds, sWrap.effAddr 3 atRax)) ∧ sWrap.segPass .ds (sWrap.effAddr 3 atRax) 8 = true ∧
      addrSpan .a64 < (sWrap.effAddr 3 atRax).toNat + 8 := ⟨.inl ⟨rfl, rfl, rfl, rfl, rfl⟩, by decide +kernel, by decide +kernel⟩

theorem witness_MemoryFaultOrder_boundary :
    FormUsable .sse .byte sOdd (some (.ds, sOdd.effAddr 4 atRax)) ∧ sOdd.segPass .ds (sOdd.effAddr 4 atRax) 16 = true ∧
      (sOdd.effAddr 4 atRax).toNat + 16 ≤ addrSpan .a64 ∧ (sOdd.effAddr 4 atRax).toNat % boundary sOdd .sse ≠ 0 :=
  ⟨.inl ⟨rfl, rfl, rfl, rfl, rfl⟩, by decide +kernel, by decide +kernel, by decide +kernel⟩

/-- `sOdd` with alignment checking on. -/
def sAc : State := { sOdd with cr0 := 0x60040011, rflags := 0x40002 }

theorem witness_MemoryFaultOrder_ac :
    FormUsable .mmx .byte sAc (some (.ds, sAc.effAddr 3 atRax)) ∧ sAc.segPass .ds (sAc.effAddr 3 atRax) 8 = true ∧ (sAc.effAddr 3 atRax).toNat + 8 ≤ addrSpan .a64 ∧
      (sAc.effAddr 3 atRax).toNat % boundary sAc .mmx = 0 ∧
      (∀ k : Nat, k < 8 → sAc.byteStop (sAc.linear .ds (sAc.effAddr 3 atRax) k) = none) ∧
      AcFails sAc .mmx (sAc.effAddr 3 atRax) :=
  ⟨.inl ⟨rfl, rfl, rfl, rfl, rfl⟩, by decide +kernel, by decide +kernel, by decide +kernel, by decide +kernel,
    rfl, rfl, by decide +kernel, by decide +kernel⟩

theorem test_alignment_check : excOf (exec (.punpckhbwMm le 0 (.mem atRax)) sAc) = some .ac := by decide +kernel

/-- S0 with the last byte of an 8-byte operand in device space. -/
def sDevice : State := { s0 with regions := [⟨0x1007, 1, .device⟩] }

theorem witness_MemoryFaultOrder_device :
    FormUsable .mmx .byte sDevice (some (.ds, sDevice.effAddr 3 atRax)) ∧ sDevice.segPass .ds (sDevice.effAddr 3 atRax) 8 = true ∧
      (sDevice.effAddr 3 atRax).toNat + 8 ≤ addrSpan .a64 ∧
      (∀ k : Nat, k < 8 → sDevice.byteStop (sDevice.linear .ds (sDevice.effAddr 3 atRax) k) = none) ∧
      sDevice.acEnabled = false ∧ sDevice.isDevice (sDevice.linear .ds (sDevice.effAddr 3 atRax) 7) = true :=
  ⟨.inl ⟨rfl, rfl, rfl, rfl, rfl⟩, by decide +kernel, by decide +kernel, by decide +kernel, by decide +kernel, by decide +kernel⟩

theorem test_device_refused : refusalOf (exec (.punpckhbwMm le 0 (.mem atRax)) sDevice) = some .deviceOperand := by
  decide +kernel

/-- S0 with the byte at offset 7 of the operand not listed. -/
def sAbsent : State := { s0 with mem := bytesFrom 0x1000 7 }

/-- S0 with the byte at offset 7 of the operand present and for the supervisor only. -/
def sProtected : State := { s0 with regions := [⟨0x1007, 1, .supervisor⟩] }

theorem witness_PageFaultReport_absent :
    (Instr.punpckhbwMm le 0 (.mem atRax)).mem? = some atRax ∧ FormUsable .mmx .byte sAbsent (some (.ds, sAbsent.effAddr 3 atRax)) ∧
      sAbsent.segPass .ds (sAbsent.effAddr 3 atRax) 8 = true ∧ (sAbsent.effAddr 3 atRax).toNat + 8 ≤ addrSpan .a64 ∧
      (sAbsent.effAddr 3 atRax).toNat % boundary sAbsent .mmx = 0 ∧ sAbsent.fetchStart 8 ≤ 7 ∧
      (∀ j : Nat, j < 7 → sAbsent.byteStop (sAbsent.linear .ds (sAbsent.effAddr 3 atRax) j) = none) ∧
      sAbsent.opMode ≠ .real ∧ sAbsent.isPresent (sAbsent.linear .ds (sAbsent.effAddr 3 atRax) 7) = false :=
  ⟨rfl, .inl ⟨rfl, rfl, rfl, rfl, rfl⟩, by decide +kernel, by decide +kernel, by decide +kernel, by decide +kernel,
    by decide +kernel, by decide +kernel, by decide +kernel⟩

theorem witness_PageFaultReport_protected :
    (Instr.punpckhbwMm le 0 (.mem atRax)).mem? = some atRax ∧ FormUsable .mmx .byte sProtected (some (.ds, sProtected.effAddr 3 atRax)) ∧
      sProtected.segPass .ds (sProtected.effAddr 3 atRax) 8 = true ∧
      (sProtected.effAddr 3 atRax).toNat + 8 ≤ addrSpan .a64 ∧
      (sProtected.effAddr 3 atRax).toNat % boundary sProtected .mmx = 0 ∧ sProtected.fetchStart 8 ≤ 7 ∧
      (∀ j : Nat, j < 7 → sProtected.byteStop (sProtected.linear .ds (sProtected.effAddr 3 atRax) j) = none) ∧
      sProtected.opMode ≠ .real ∧ sProtected.isProtected (sProtected.linear .ds (sProtected.effAddr 3 atRax) 7) = true :=
  ⟨rfl, .inl ⟨rfl, rfl, rfl, rfl, rfl⟩, by decide +kernel, by decide +kernel, by decide +kernel, by decide +kernel,
    by decide +kernel, by decide +kernel, by decide +kernel⟩

theorem test_page_faults :
    excOf (exec (.punpckhbwMm le 0 (.mem atRax)) sAbsent) = some (.pf 4 0x1007) ∧
      excOf (exec (.punpckhbwMm le 0 (.mem atRax)) sProtected) = some (.pf 5 0x1007) := by decide +kernel

/-- The memory operand [1000H] of 16-bit code. -/
def atAbs16 : MemOp := ⟨.ds, .a16, .abs16 0x1000⟩

/-- Real-address mode with nothing in memory. -/
def sRealEmpty : State := { sReal with mem := [] }

theorem witness_PageFaultReport_real :
    (Instr.punpckhbwMm le 0 (.mem atAbs16)).mem? = some atAbs16 ∧ FormUsable .mmx .byte sRealEmpty (some (.ds, sRealEmpty.effAddr 5 atAbs16)) ∧
      sRealEmpty.segPass .ds (sRealEmpty.effAddr 5 atAbs16) 8 = true ∧
      (sRealEmpty.effAddr 5 atAbs16).toNat + 8 ≤ addrSpan .a16 ∧
      (sRealEmpty.effAddr 5 atAbs16).toNat % boundary sRealEmpty .mmx = 0 ∧ sRealEmpty.fetchStart 8 ≤ 0 ∧
      sRealEmpty.opMode = .real ∧ sRealEmpty.isPresent (sRealEmpty.linear .ds (sRealEmpty.effAddr 5 atAbs16) 0) = false :=
  ⟨rfl, .inl ⟨rfl, rfl, rfl, rfl, rfl⟩, by decide +kernel, by decide +kernel, by decide +kernel, by decide +kernel,
    by decide +kernel, by decide +kernel⟩

theorem witness_ExceptionCatalogue_default : s0.replaced = none := rfl

theorem witness_ExceptionCatalogue_mf : ∃ t, exec (.punpckhbwMm le 0 (.reg 1)) sEs = .fault (.raised .mf t) := ⟨_, rfl⟩

theorem witness_ExceptionCatalogue_ac : ∃ t, exec (.punpckhbwMm le 0 (.mem atRax)) sAc = .fault (.raised .ac t) := ⟨_, rfl⟩

theorem witness_ExceptionCatalogue_ss :
    ∃ t, exec (.punpckhbwMm le 0 (.mem atRbp)) sNonCanonical = .fault (.raised .ss t) := ⟨_, rfl⟩

theorem witness_ExceptionCatalogue_gp :
    ∃ t, exec (.punpckhbwXmm le66 0 (.mem atRax)) sOdd = .fault (.raised .gp t) := ⟨_, rfl⟩

theorem witness_ExceptionCatalogue_pf :
    ∃ t, exec (.punpckhbwMm le 0 (.mem atRax)) sAbsent = .fault (.raised (.pf 4 0x1007) t) := ⟨_, rfl⟩

theorem witness_FaultsArePrecise : ∃ f, step (at0 [0xF0, 0x0F, 0x68, 0xC1]) = .fault f := ⟨_, rfl⟩

/-- S0 with a free function for Type4Check. -/
def sFree : State := { s0 with params := ⟨false, false, .other 0⟩ }

theorem witness_ReplacedType4Check :
    sFree.params.type4 = .other 0 ∧ sFree.formThere .mmx = true ∧ sFree.formThere .sse = true ∧
      { sFree with features := ⟨false, false, true, true⟩ }.formThere .mmx = false ∧
      { sFree with features := ⟨false, false, true, true⟩ }.formThere .sse = false := by decide

/-- R57, C7: VEX_ALIGN_ENFORCED holds whichever function stands for Type4Check; the 16-byte row of R205 does not. -/
theorem test_boundary_replaced :
    boundary { sFree with params := ⟨true, false, .other 0⟩ } .vex128 = 16 ∧
      boundary { sFree with params := ⟨true, false, .other 0⟩ } .vex256 = 32 ∧
      boundary sFree .vex128 = 1 ∧ boundary sFree .sse = 1 ∧ boundary s0 .sse = 16 := by decide

/-- The memory operand [BP + FFF1H] of 16-bit code, through SS. -/
def atBp16 : MemOp := ⟨.ss, .a16, .regs16 6 (.d16 0xFFF1)⟩

/-- Virtual-8086 mode with BP = 0. -/
def sV86Edge : State := { sV86 with gpr := sV86.gpr.set 5 0 }

/-- Past FFFFH through SS in virtual-8086 mode: #SS for an MMX form (R53, R207), #GP for an SSE form by the table of R205, #SS for
it by R53. -/
theorem test_segment_faults_v86 :
    excOf (exec (.punpckhbwMm le 0 (.mem ⟨.ss, .a16, .regs16 6 (.d16 0xFFF9)⟩)) sV86Edge) = some .ss ∧
      excOf (exec (.punpckhbwXmm le66 0 (.mem atBp16)) sV86Edge) = some .gp ∧
      excOf (exec (.punpckhbwXmm le66 0 (.mem atBp16)) { sV86Edge with params := ⟨false, false, .tableR53⟩ }) = some .ss := by
  decide +kernel

/-- R205, G22: #GP carries no error code in real-address mode, and 0 elsewhere. -/
theorem test_error_codes : (Fault.raised .gp sReal).errorCode = none ∧ (Fault.raised .gp sV86).errorCode = some 0 ∧
    sReal.opMode = .real ∧ sV86.opMode ≠ .real := by decide

/-! ### Witnesses: frames and laws -/

theorem witness_CompletedFrame_mmx : ∃ t, exec (.punpckhdqMm le 7 (.reg 0)) s0 = .next t := ⟨_, rfl⟩

theorem witness_CompletedFrame_sse : ∃ t, exec (.punpckhqdqXmm le66 0 (.mem atRax)) s0 = .next t := ⟨_, rfl⟩

theorem witness_CompletedFrame_vex128 : ∃ t, exec (.vpunpckhqdqXmm ve 0 2 (.reg 0)) s0 = .next t := ⟨_, rfl⟩

theorem witness_CompletedFrame_vex256 : ∃ t, exec (.vpunpckhqdqYmm ve 15 2 (.reg 0)) s0 = .next t := ⟨_, rfl⟩

theorem witness_RunKeepsProgram :
    (∃ t, Host.Core.run Sys2Proof.core 1 (s32.placeCode [0xC5, 0xED, 0x68, 0xCB]) = .next t) ∧
      (s32.placeCode [0xC5, 0xED, 0x68, 0xCB]).codeMode ≠ .m64 := ⟨⟨_, rfl⟩, by decide⟩

theorem witness_PrivilegeIrrelevant :
    (Instr.punpckhqdqXmm le66 7 (.reg 0)).mem? = none ∧ s0.replaced = none ∧
      (∃ t, exec (.punpckhqdqXmm le66 7 (.reg 0)) s0 = .next t) ∧
      ∃ t, exec (.punpckhqdqXmm le66 7 (.reg 0)) sTs = .fault (.raised .nm t) := ⟨rfl, rfl, ⟨_, rfl⟩, _, rfl⟩

theorem witness_MmxIgnoresOsEnables :
    (Instr.punpckhdqMm le 7 (.mem atRax)).cls = .mmx ∧ s0.replaced = none ∧ (∃ t, exec (.punpckhdqMm le 7 (.mem atRax)) s0 = .next t) ∧
      ∃ t, exec (.punpckhdqMm le 7 (.mem atRax)) sEs = .fault (.raised .mf t) := ⟨rfl, rfl, ⟨_, rfl⟩, _, rfl⟩

theorem witness_VexSpellingsAgree :
    (∀ d : BitVec 32, atRax.form ≠ .ripRel d) ∧
      ∃ t, exec (vexInstr ⟨[], .two false false⟩ 0 2 (.mem atRax) true .byte) s0 = .next t :=
  ⟨fun _ h => (nomatch h), _, rfl⟩

theorem witness_interleave_laws :
    (∀ w ∈ [8, 16, 32, 64], 64 / w - 1 < 64 / w) ∧ (∀ w ∈ [8, 16, 32], 32 / w - 1 < 32 / w) ∧
      (0xFF#128).extractLsb' 64 64 = (0#128).extractLsb' 64 64 ∧ (0xFF#64).extractLsb' 32 32 = (0#64).extractLsb' 32 32 ∧
      (0xFF#256).extractLsb' 64 64 = (0#256).extractLsb' 64 64 ∧
      (0xFF#256).extractLsb' 192 64 = (0#256).extractLsb' 192 64 := by decide

end Sys2Proof.Tests
end

section
/-! PROOFS. ReplacedType4Check: what `usable`, the operand read and `exec` do where a free function stands for Type4Check
(log 4), and from them the settling of O36. -/

namespace Sys2Proof.Machine

/-! ### The checks before a form -/

theorem usable_replaced_absent {c : Cls} {el : Elem} {s : State} {op : Option (Seg × BitVec 64)} {k : Nat}
    (hk : s.replaced = some k) (hf : s.formThere c = false) : usable c el s op = .error (.exc .ud) := by
  simp [usable, hk, hf]

theorem usable_replaced_raises {c : Cls} {el : Elem} {s : State} {op : Option (Seg × BitVec 64)} {k : Nat} {x : Exc}
    (hk : s.replaced = some k) (hf : s.formThere c = true) (hx : otherType4Check k c el s op = some x) :
    usable c el s op = .error (.exc x) := by
  simp [usable, hk, hf, hx]

theorem usable_replaced_passes {c : Cls} {el : Elem} {s : State} {op : Option (Seg × BitVec 64)} {k : Nat}
    (hk : s.replaced = some k) (hf : s.formThere c = true) (hx : otherType4Check k c el s op = none) :
    usable c el s op = .ok () :=
  (usable_ok_iff c el s op).2 (.inr ⟨k, hk, hf, hx⟩)

/-! ### The memory operand -/

/-- An exception of the translation is a page fault, in every mode (20_memory.md R63). -/
theorem transStop_exc {s : State} {g : Seg} {addr : BitVec 64} {n : Nat} {x : Exc}
    (h : s.transStop g addr n = some (.exc x)) : ∃ code a, x = .pf code a := by
  obtain ⟨a, -, ha⟩ := List.exists_of_findSome?_eq_some h
  rcases byteStop_some s a _ ha with ⟨-, -, he⟩ | ⟨-, -, he⟩ | ⟨-, -, -, he⟩
  · cases he
  · cases he
    exact ⟨_, _, rfl⟩
  · cases he
    exact ⟨_, _, rfl⟩

/-- With Type4Check replaced, of the checks of a memory operand only the boundary and the translation raise: the segment check
passes and #AC is not raised (20_memory.md R52; log 4). -/
theorem memRead_replaced_exc {w : Nat} {s : State} {c : Cls} {g : Seg} {asz : AddrSize} {addr : BitVec 64} {k : Nat} {x : Exc}
    (hk : s.replaced = some k) (h : memRead w s c g asz addr = .error (.exc x)) :
    (∃ code a, x = .pf code a) ∨ (x = .gp ∧ addr.toNat % boundary s c ≠ 0) := by
  rcases memRead_error h with ⟨hseg, -⟩ | ⟨-, -, he⟩ | ⟨-, -, hb, he⟩ | ⟨-, -, -, ht⟩ | ⟨-, hac, -⟩ | ⟨-, -, he⟩
  · exact nomatch (segPass_replaced s k hk ..).symm.trans hseg
  · cases he
  · cases he
    exact .inr ⟨rfl, hb⟩
  · exact .inl (transStop_exc ht)
  · obtain ⟨-, hnone, -, -⟩ := hac
    exact nomatch hk.symm.trans hnone
  · cases he

/-- With Type4Check replaced, the only boundary left is that of VEX_ALIGN_ENFORCED, the size of the operand (20_memory.md R57). -/
theorem off_boundary_replaced {s : State} {c : Cls} {a k : Nat} (hk : s.replaced = some k) (h : a % boundary s c ≠ 0) :
    s.params.vexAlignEnforced = true ∧ (c = .vex128 ∨ c = .vex256) ∧ a % operandSize c ≠ 0 := by
  obtain ⟨h128, h256⟩ := boundary_vex s
  cases c with
  | mmx => exact absurd (Nat.mod_one a) h
  | sse => exact absurd (Nat.mod_one a) (boundary_sse_replaced s k hk ▸ h)
  | vex128 =>
    rw [h128] at h
    split at h
    · next henf => exact ⟨henf, .inl rfl, h⟩
    · exact absurd (Nat.mod_one a) h
  | vex256 =>
    rw [h256] at h
    split at h
    · next henf => exact ⟨henf, .inr rfl, h⟩
    · exact absurd (Nat.mod_one a) h

/-- The read of an instruction's operand stops only where there is a memory operand, by what its read raises. -/
theorem operandRead_error {i : Instr} {s : State} {e : Stop} (h : operandRead i s = .error e) :
    ∃ o, i.mem? = some o ∧ memRead (8 * operandSize i.cls) s i.cls o.seg o.asz (s.effAddr i.len o) = .error e := by
  unfold operandRead at h
  cases hm : i.mem? with
  | none =>
    rw [hm] at h
    cases h
  | some o =>
    refine ⟨o, rfl, ?_⟩
    rw [hm, memOperandRead] at h
    cases hr : memRead (8 * operandSize i.cls) s i.cls o.seg o.asz (s.effAddr i.len o) with
    | ok v =>
      rw [hr] at h
      cases h
    | error e' =>
      rw [hr] at h
      cases h
      rfl

/-! ### Executing a form -/

theorem exec_of_check_exc {i : Instr} {s : State} {x : Exc} (h : usable i.cls i.elem s (operandAt i s) = .error (.exc x)) :
    exec i s = .fault (.raised x s) := by
  rcases exec_cases i s with ⟨hok, -, -⟩ | ⟨e, he, hexec⟩ | ⟨hok, -⟩
  · exact nomatch h.symm.trans hok
  · cases h.symm.trans he
    exact hexec
  · exact nomatch h.symm.trans hok

/-- Past its checks, a form completes or stops by the read of its memory operand (60_exceptions.md R211). -/
theorem exec_of_check_ok {i : Instr} {s : State} (h : usable i.cls i.elem s (operandAt i s) = .ok ()) :
    (∃ t, exec i s = .next t) ∨ ∃ e, operandRead i s = .error e ∧ exec i s = s.finish (.error e) := by
  rcases exec_cases i s with ⟨-, -, hnext⟩ | ⟨e, he, -⟩ | ⟨-, hstop⟩
  · exact .inl hnext
  · exact nomatch h.symm.trans he
  · exact .inr hstop

theorem exec_completes_of_mem?_none {i : Instr} {s : State} (h : usable i.cls i.elem s (operandAt i s) = .ok ())
    (hm : i.mem? = none) : ∃ t, exec i s = .next t := by
  rcases exec_of_check_ok h with hnext | ⟨e, he, -⟩
  · exact hnext
  · obtain ⟨o, ho, -⟩ := operandRead_error he
    exact nomatch hm.symm.trans ho

/-- Past its checks, what a form raises is what the read of its memory operand raises. -/
theorem memRead_of_exec_raised {i : Instr} {s t : State} {x : Exc}
    (h : usable i.cls i.elem s (operandAt i s) = .ok ()) (hx : exec i s = .fault (.raised x t)) :
    ∃ o, i.mem? = some o ∧
      memRead (8 * operandSize i.cls) s i.cls o.seg o.asz (s.effAddr i.len o) = .error (.exc x) := by
  rcases exec_of_check_ok h with ⟨u, hu⟩ | ⟨e, he, hexec⟩
  · exact nomatch hu.symm.trans hx
  · rw [hexec] at hx
    rcases (finish_fault_iff s _ _).1 hx with ⟨y, hy, hf⟩ | ⟨a, -, hf⟩
    · cases hy
      cases hf
      exact operandRead_error he
    · cases hf

/-- Settles O36, by what the free function says of the form: absent, raised by the function, or left to the memory operand. -/
theorem replacedType4Check : Obligations.ReplacedType4Check := by
  intro s i k htype
  have hk : s.replaced = some k := (replaced_eq_some_iff s k).2 htype
  refine ⟨fun hf => exec_of_check_exc (usable_replaced_absent hk hf), fun hf => ?_⟩
  split
  · next x hx => exact exec_of_check_exc (usable_replaced_raises hk hf hx)
  · next hx =>
    have hok : usable i.cls i.elem s (operandAt i s) = .ok () := usable_replaced_passes hk hf hx
    refine ⟨exec_completes_of_mem?_none hok, fun x t hraised => ?_⟩
    obtain ⟨o, ho, hread⟩ := memRead_of_exec_raised hok hraised
    rcases memRead_replaced_exc hk hread with hpf | ⟨hgp, hoff⟩
    · exact .inl hpf
    · obtain ⟨henf, hcls, hsize⟩ := off_boundary_replaced hk hoff
      exact .inr ⟨hgp, henf, hcls, o, ho, hsize⟩

end Sys2Proof.Machine
end

section
/-! PROOFS. StateFrame: the state after reset, what a completed form leaves of the state before it, and from these the settling
of O4, O6, O7 and O42. -/

namespace Sys2Proof.Machine

/-! ### The state after reset -/

theorem readMm_reset (r : MmReg) : State.reset.readMm r = 0 := by
  simp [State.readMm, State.reset]

theorem readX87Hi_reset (r : MmReg) : State.reset.readX87Hi r = 0 := by
  simp [State.readX87Hi, State.reset]

theorem readYmm_reset (r : VecReg) : State.reset.readYmm r = 0 := by
  simp [State.readYmm, State.reset]

theorem byteAt_reset (a : Nat) : State.reset.byteAt a = none := rfl

/-- Settles O4: the register files and memory for every number and address, the other fields by evaluation. -/
theorem resetValues : Obligations.ResetValues :=
  ⟨fun r => ⟨readMm_reset r, readX87Hi_reset r⟩, rfl, rfl, readYmm_reset, rfl, rfl, rfl, rfl, rfl, rfl, rfl, rfl, byteAt_reset⟩

/-- Settles O6, clause by clause of the invariant. -/
theorem resetHasInvariant : Obligations.ResetHasInvariant :=
  ⟨reset_mem_wf, fun _ => by decide, fun _ => rfl⟩

/-! ### The state after a completed form -/

/-- The state that a completing form can leave: an MMX form writes its register, the x87 fields and pc, any other form one YMM
register and pc (10_state.md R22, R24, R32). -/
inductive CompletedBy (i : Instr) (s : State) : State → Prop
  | mmx (d : MmReg) (v : BitVec 64) (hcls : i.cls = .mmx) (hmm : mmDst i = some d) (hymm : ymmDst i = none) :
    CompletedBy i s (((s.writeMm d v).mmxSideEffects d).advance i.len)
  | ymm (d : VecReg) (v : BitVec 256) (hcls : i.cls ≠ .mmx) (hmm : mmDst i = none) (hymm : ymmDst i = some d)
    (hsse : i.cls = .sse → laneHigh v = laneHigh (s.readYmm d)) (hvex128 : i.cls = .vex128 → laneHigh v = 0) :
    CompletedBy i s ((s.writeYmm d v).advance i.len)

/-- Everything that executing an instruction to completion can do to the state, but for the value written. -/
theorem exec_completedBy {i : Instr} {s t : State} (h : exec i s = .next t) : CompletedBy i s t := by
  cases i with
  | punpckhbwMm e d r | punpckhwdMm e d r | punpckhdqMm e d r =>
    obtain ⟨-, b, -, rfl⟩ := (stepMmx_next_iff _ e d r s t).1 h
    exact .mmx d _ rfl rfl rfl
  | punpckhbwXmm e d r | punpckhwdXmm e d r | punpckhdqXmm e d r | punpckhqdqXmm e d r =>
    obtain ⟨-, b, -, rfl⟩ := (stepSse_next_iff _ e d r s t).1 h
    exact .ymm d _ nofun rfl rfl (fun _ => laneHigh_append ..) nofun
  | vpunpckhbwXmm e d a r | vpunpckhwdXmm e d a r | vpunpckhdqXmm e d a r | vpunpckhqdqXmm e d a r =>
    obtain ⟨-, b, -, rfl⟩ := (stepVex128_next_iff _ e d a r s t).1 h
    exact .ymm d _ nofun rfl rfl nofun (fun _ => laneHigh_append ..)
  | vpunpckhbwYmm e d a r | vpunpckhwdYmm e d a r | vpunpckhdqYmm e d a r | vpunpckhqdqYmm e d a r =>
    obtain ⟨-, b, -, rfl⟩ := (stepVex256_next_iff _ e d a r s t).1 h
    exact .ymm d _ nofun rfl rfl nofun nofun

@[simp] theorem readMm_advance (s : State) (n : Nat) (r : MmReg) : (s.advance n).readMm r = s.readMm r := rfl
@[simp] theorem readX87Hi_advance (s : State) (n : Nat) (r : MmReg) : (s.advance n).readX87Hi r = s.readX87Hi r := rfl
@[simp] theorem readYmm_advance (s : State) (n : Nat) (r : VecReg) : (s.advance n).readYmm r = s.readYmm r := rfl

namespace CompletedBy

variable {i : Instr} {s t : State}

theorem sameControl (h : CompletedBy i s t) : SameControl s t := by
  cases h <;> simp [SameControl]

theorem mem_eq (h : CompletedBy i s t) : t.mem = s.mem := by
  cases h <;> rfl

theorem rip_eq (h : CompletedBy i s t) : t.rip = s.nextRip i.len := by
  cases h <;> rfl

theorem advanced (h : CompletedBy i s t) : Advanced s t i.len := by
  intro hlt
  rw [h.rip_eq]
  exact nextRip_toNat s i.len hlt

theorem readMm_of_ne (h : CompletedBy i s t) {r : MmReg} (hr : mmDst i ≠ some r) : t.readMm r = s.readMm r := by
  cases h with
  | mmx d v _ hmm _ =>
    have hne : r ≠ d := fun e => hr (e ▸ hmm)
    exact s.readMm_writeMm_of_ne v hne
  | ymm => rfl

theorem readX87Hi_of_ne (h : CompletedBy i s t) {r : MmReg} (hr : mmDst i ≠ some r) :
    t.readX87Hi r = s.readX87Hi r := by
  cases h with
  | mmx d v _ hmm _ =>
    have hne : r ≠ d := fun e => hr (e ▸ hmm)
    exact (s.writeMm d v).readX87Hi_mmxSideEffects_of_ne hne
  | ymm => rfl

theorem readX87Hi_dst (h : CompletedBy i s t) {r : MmReg} (hr : mmDst i = some r) : t.readX87Hi r = 0xFFFF#16 := by
  cases h with
  | mmx d v _ hmm _ =>
    cases hmm.symm.trans hr
    exact (s.writeMm r v).readX87Hi_mmxSideEffects_self r
  | ymm d v _ hmm _ _ _ => exact nomatch hmm.symm.trans hr

theorem readYmm_of_ne (h : CompletedBy i s t) {r : VecReg} (hr : ymmDst i ≠ some r) : t.readYmm r = s.readYmm r := by
  cases h with
  | mmx => rfl
  | ymm d v _ _ hymm _ _ =>
    have hne : r ≠ d := fun e => hr (e ▸ hymm)
    exact s.readYmm_writeYmm_of_ne v hne

/-- A legacy SSE form keeps bits 255:128 of every register, its destination among them (10_state.md R22). -/
theorem laneHigh_sse (h : CompletedBy i s t) (hc : i.cls = .sse) (r : VecReg) :
    laneHigh (t.readYmm r) = laneHigh (s.readYmm r) := by
  by_cases hr : ymmDst i = some r
  · cases h with
    | mmx d v hcls _ _ => exact nomatch hcls.symm.trans hc
    | ymm d v _ _ hymm hsse _ =>
      cases hymm.symm.trans hr
      rw [readYmm_advance, State.readYmm_writeYmm_self]
      exact hsse hc
  · rw [h.readYmm_of_ne hr]

/-- A VEX.128 form clears bits 255:128 of its destination (10_state.md R22). -/
theorem laneHigh_vex128 (h : CompletedBy i s t) (hc : i.cls = .vex128) {r : VecReg} (hr : ymmDst i = some r) :
    laneHigh (t.readYmm r) = 0 := by
  cases h with
  | mmx d v hcls _ _ => exact nomatch hcls.symm.trans hc
  | ymm d v _ _ hymm _ hvex128 =>
    cases hymm.symm.trans hr
    rw [readYmm_advance, State.readYmm_writeYmm_self]
    exact hvex128 hc

theorem x87_mmx (h : CompletedBy i s t) (hc : i.cls = .mmx) :
    t.x87Status = clearTos s.x87Status ∧ t.x87Tag = 0 := by
  cases h with
  | mmx => exact ⟨rfl, rfl⟩
  | ymm d v hcls _ _ _ _ => exact absurd hc hcls

theorem x87_of_ne_mmx (h : CompletedBy i s t) (hc : i.cls ≠ .mmx) :
    t.x87Status = s.x87Status ∧ t.x87Tag = s.x87Tag := by
  cases h with
  | mmx d v hcls _ _ => exact absurd hcls hc
  | ymm => exact ⟨rfl, rfl⟩

/-- What an MMX form leaves of the x87 fields (10_state.md R32). -/
theorem x87_fields (h : CompletedBy i s t) (hc : i.cls = .mmx) :
    t.x87Tos = 0 ∧ t.x87Tag = 0 ∧
      (∀ k : Nat, ¬ (11 ≤ k ∧ k ≤ 13) → t.x87Status.getLsbD k = s.x87Status.getLsbD k) ∧
      ∀ r : MmReg, mmDst i = some r → t.readX87Hi r = 0xFFFF#16 := by
  obtain ⟨hstatus, htag⟩ := h.x87_mmx hc
  refine ⟨?_, htag, fun k hk => ?_, fun r hr => h.readX87Hi_dst hr⟩
  · rw [State.x87Tos, hstatus, clearTos_tos]
  · rw [hstatus, clearTos_other _ _ hk]

end CompletedBy

/-! ### Faults -/

theorem finish_fault_state {s : State} {r : Except Stop State} {f : Fault} (h : s.finish r = .fault f) : f.state = s := by
  rcases (finish_fault_iff s r f).1 h with ⟨x, -, rfl⟩ | ⟨a, -, rfl⟩ <;> rfl

/-- A form that faults carries the state before it (60_exceptions.md R202, R212). -/
theorem exec_fault_state {i : Instr} {s : State} {f : Fault} (h : exec i s = .fault f) : f.state = s := by
  rcases exec_cases i s with ⟨-, -, t, ht⟩ | ⟨e, -, he⟩ | ⟨-, e, -, he⟩
  · exact nomatch ht.symm.trans h
  · exact finish_fault_state (he.symm.trans h)
  · exact finish_fault_state (he.symm.trans h)

/-- Settles O42, from the two shapes of a completed form and the state that a fault carries. -/
theorem completedFrame : Obligations.CompletedFrame := by
  refine ⟨fun i s t hexec => ?_, fun i s f hexec => exec_fault_state hexec⟩
  have h : CompletedBy i s t := exec_completedBy hexec
  exact ⟨h.sameControl, h.mem_eq, h.advanced, fun r hr => ⟨h.readMm_of_ne hr, h.readX87Hi_of_ne hr⟩,
    fun r hr => h.readYmm_of_ne hr, h.laneHigh_sse, fun hc r hr => h.laneHigh_vex128 hc hr, h.x87_fields, h.x87_of_ne_mmx⟩

/-! ### The step and the invariant -/

theorem SameControl.codeMode_eq {s t : State} (h : SameControl s t) : t.codeMode = s.codeMode := by
  obtain ⟨-, -, -, -, -, -, -, -, hmode, -, -, -, -⟩ := h
  exact hmode

theorem SameControl.features_eq {s t : State} (h : SameControl s t) : t.features = s.features := by
  obtain ⟨-, -, -, -, -, -, -, -, -, -, hfeatures, -, -⟩ := h
  exact hfeatures

/-- A step that completes is the execution of an instruction that it decoded (30_encoding.md R102). -/
theorem step_next {s t : State} (h : step s = .next t) : ∃ i, Runs s i ∧ exec i s = .next t := by
  unfold step at h
  split at h
  · next i rest hdec => exact ⟨i, ⟨rest, hdec⟩, h⟩
  · next d hdec => cases d <;> cases h

/-- Settles O7: memory, mode and feature flags are the same, and the new program counter is again an EIP of 32 bits. -/
theorem stepKeepsInvariant : Obligations.StepKeepsInvariant := by
  rintro s t ⟨hwf, -, havx⟩ hstep
  obtain ⟨i, -, hexec⟩ := step_next hstep
  have h : CompletedBy i s t := exec_completedBy hexec
  refine ⟨?_, fun hm => ?_, ?_⟩
  · rw [h.mem_eq]
    exact hwf
  · rw [h.rip_eq]
    exact nextRip_lt s i.len (h.sameControl.codeMode_eq ▸ hm)
  · rw [h.sameControl.features_eq]
    exact havx

end Sys2Proof.Machine
end

section
/-! PROOFS. LowRegisters: what the parts of the decoder give outside 64-bit mode, the frame of a run, and from these the settling
of O20 and O43. -/

namespace Sys2Proof

/-! ### The REX byte -/

theorem isRex_of_pfxOfByte {b : Byte} {p : Pfx} (h : pfxOfByte b = some p) : p.isRex = false := by
  cases p with
  | rex r => simp [pfxOfByte, ite_eq_iff] at h
  | opSize | addrSize | seg _ | lock | repne | rep => rfl

theorem prefixOf_of_ne_m64 {m : CodeMode} (hm : m ≠ .m64) (b : Byte) : prefixOf m b = pfxOfByte b :=
  if_neg fun h => hm h.1

/-- Outside 64-bit mode no byte is taken for REX (30_encoding.md R92). -/
theorem isRex_takePrefixes {m : CodeMode} (hm : m ≠ .m64) (bs : List Byte) :
    ∀ p ∈ (takePrefixes m bs).1, p.isRex = false := by
  induction bs with
  | nil => exact nofun
  | cons b bs ih =>
    intro p hp
    unfold takePrefixes at hp
    split at hp
    · next q hq =>
      rcases List.mem_cons.1 hp with rfl | htail
      · exact isRex_of_pfxOfByte (prefixOf_of_ne_m64 hm b ▸ hq)
      · exact ih p htail
    · exact nomatch hp

theorem splitRex_snd_eq_none {ps : List Pfx} (h : ∀ p ∈ ps, p.isRex = false) : (splitRex ps).2 = none := by
  induction ps using splitRex.induct with
  | case1 => rfl
  | case2 r => exact nomatch h (.rex r) (List.mem_singleton_self _)
  | case3 p ps hne ih =>
    rw [splitRex.eq_3 p ps hne]
    exact ih fun q hq => h q (List.mem_cons_of_mem p hq)

/-! ### Register numbers and the instructions that name them -/

theorem extReg_false_lt (lo : BitVec 3) : (extReg false lo).toNat < 8 := by
  revert lo
  decide

theorem rmRegs_of_takeRM {m : CodeMode} {ps : List Pfx} {x b : Bool} {mkReg : BitVec 3 → BitVec 4} {modrm : Byte}
    {bs rest : List Byte} {src : RM 4} (h : takeRM m ps x b mkReg modrm bs = .ok (src, rest)) :
    ∀ r ∈ Machine.vecRegs.rmRegs src, ∃ lo, r = mkReg lo := by
  intro r hr
  cases src with
  | mem o => exact nomatch hr
  | reg q =>
    unfold takeRM at h
    split at h
    · cases h
      exact ⟨_, List.mem_singleton.1 hr⟩
    · cases hmem : takeMem m ps x b (fieldHi modrm) (fieldLo modrm) bs <;> rw [hmem] at h <;> cases h

theorem vecRegs_mmxInstr {e : LegacyEnc} {d : MmReg} {src : RM 3} {el : Elem} {i : Instr}
    (h : mmxInstr e d src el = some i) : Machine.vecRegs i = [] := by
  cases el <;> cases h <;> rfl

theorem vecRegs_sseInstr (e : LegacyEnc) (d : VecReg) (src : RM 4) (el : Elem) :
    Machine.vecRegs (sseInstr e d src el) = d :: Machine.vecRegs.rmRegs src := by
  cases el <;> rfl

theorem vecRegs_vexInstr (e : VexEnc) (d a : VecReg) (src : RM 4) (l : Bool) (el : Elem) :
    Machine.vecRegs (vexInstr e d a src l el) = d :: a :: Machine.vecRegs.rmRegs src := by
  cases l <;> cases el <;> rfl

/-- Every XMM or YMM register that an instruction names is below 8. -/
def NamesLowRegs (i : Instr) : Prop := ∀ r ∈ Machine.vecRegs i, r.toNat < 8

/-! ### The legacy shape -/

theorem namesLowRegs_of_takeMmxOperands {m : CodeMode} {e : LegacyEnc} {el : Elem} {bs rest : List Byte} {i : Instr}
    (h : takeMmxOperands m e el bs = .ok (i, rest)) : NamesLowRegs i := by
  cases bs with
  | nil => cases h
  | cons modrm bs =>
    unfold takeMmxOperands at h
    dsimp only at h
    split at h
    · cases h
    · split at h
      · next hi =>
        cases h
        rw [NamesLowRegs, vecRegs_mmxInstr hi]
        exact nofun
      · cases h

theorem namesLowRegs_of_takeSseOperands {m : CodeMode} {e : LegacyEnc} {el : Elem} {bs rest : List Byte} {i : Instr}
    (hrex : e.rex = none) (h : takeSseOperands m e el bs = .ok (i, rest)) : NamesLowRegs i := by
  have hr : e.r = false := by simp [LegacyEnc.r, hrex]
  have hb : e.b = false := by simp [LegacyEnc.b, hrex]
  cases bs with
  | nil => cases h
  | cons modrm bs =>
    rw [takeSseOperands, hr, hb] at h
    cases hrm : takeRM m e.pfx e.x false (extReg false) modrm bs with
    | error d => rw [hrm] at h; cases h
    | ok p =>
      rw [hrm] at h
      cases h
      rw [NamesLowRegs, vecRegs_sseInstr, List.forall_mem_cons]
      refine ⟨extReg_false_lt _, fun q hq => ?_⟩
      obtain ⟨lo, rfl⟩ := rmRegs_of_takeRM hrm q hq
      exact extReg_false_lt lo

theorem namesLowRegs_of_decodeLegacy {m : CodeMode} {e : LegacyEnc} {bs rest : List Byte} {i : Instr}
    (hrex : e.rex = none) (h : decodeLegacy m e bs = .ok (i, rest)) : NamesLowRegs i := by
  cases bs with
  | nil => cases h
  | cons op bs =>
    unfold decodeLegacy at h
    dsimp only at h
    split at h
    · cases h
    · split_ifs at h
      · exact namesLowRegs_of_takeSseOperands hrex h
      · exact namesLowRegs_of_takeMmxOperands h

/-! ### The VEX shape -/

theorem namesLowRegs_of_takeVexOperands {m : CodeMode} {e : VexEnc} {src1 : VecReg} {l : Bool} {el : Elem}
    {bs rest : List Byte} {i : Instr} (hr : e.vex.r = false) (hb : e.vex.b = false) (hsrc1 : src1.toNat < 8)
    (h : takeVexOperands m e src1 l el bs = .ok (i, rest)) : NamesLowRegs i := by
  cases bs with
  | nil => cases h
  | cons modrm bs =>
    rw [takeVexOperands, hr, hb] at h
    cases hrm : takeRM m e.pfx e.vex.x false (extReg false) modrm bs with
    | error d => rw [hrm] at h; cases h
    | ok p =>
      rw [hrm] at h
      cases h
      rw [NamesLowRegs, vecRegs_vexInstr, List.forall_mem_cons, List.forall_mem_cons]
      refine ⟨extReg_false_lt _, hsrc1, fun q hq => ?_⟩
      obtain ⟨lo, rfl⟩ := rmRegs_of_takeRM hrm q hq
      exact extReg_false_lt lo

/-- Outside 64-bit mode vvvv names its low three bits, and a set B is refused (30_encoding.md R94, R98). -/
theorem namesLowRegs_of_decodeVexTail {m : CodeMode} {ps : List Pfx} {v : VexPrefix} {mapOk : Bool} {last : Byte}
    {bs rest : List Byte} {i : Instr} (hm : m ≠ .m64) (hr : v.r = false)
    (h : decodeVexTail m ps v mapOk last bs = .ok (i, rest)) : NamesLowRegs i := by
  cases bs with
  | nil => cases h
  | cons op bs =>
    unfold decodeVexTail at h
    dsimp only at h
    split at h
    · cases h
    · split_ifs at h with _ hb
      have hb : v.b = false := by simpa [hm] using hb
      have hm64 : (m == .m64) = false := beq_false_of_ne hm
      rw [hm64, Bool.false_and] at h
      exact namesLowRegs_of_takeVexOperands hr hb (extReg_false_lt _) h

/-- Outside 64-bit mode the byte after C5 or C4 is VEX only with R' = X' = 1, the inverted form of R = X = 0 (30_encoding.md
R98). -/
theorem vexR_of_fieldHi {b1 : Byte} (h : fieldHi b1 = 3#2) (b2 : Byte) :
    (vexTwo b1).r = false ∧ (vexThree b1 b2).r = false := by
  have htop : b1.getLsbD 7 = true := by simpa [fieldHi] using congrArg (fun w => w.getLsbD 1) h
  simp [vexTwo, vexThree, VexPrefix.r, htop]

theorem namesLowRegs_of_decodeVex {m : CodeMode} {ps : List Pfx} {rex : Option Rex} {three : Bool}
    {bs rest : List Byte} {i : Instr} (hm : m ≠ .m64) (h : decodeVex m ps rex three bs = .ok (i, rest)) :
    NamesLowRegs i := by
  cases bs with
  | nil => cases h
  | cons b1 bs =>
    unfold decodeVex at h
    dsimp only at h
    split_ifs at h with hhi _ _
    · have hhi : fieldHi b1 = 3#2 := by simpa [hm] using hhi
      cases bs with
      | nil => cases h
      | cons b2 bs => exact namesLowRegs_of_decodeVexTail hm (vexR_of_fieldHi hhi b2).2 h
    · have hhi : fieldHi b1 = 3#2 := by simpa [hm] using hhi
      exact namesLowRegs_of_decodeVexTail hm (vexR_of_fieldHi hhi 0).1 h

/-! ### The decoder -/

theorem namesLowRegs_of_decodeOpcode {m : CodeMode} {ps : List Pfx} {bs rest : List Byte} {i : Instr} (hm : m ≠ .m64)
    (h : decodeOpcode m ps none bs = .ok (i, rest)) : NamesLowRegs i := by
  cases bs with
  | nil => cases h
  | cons b bs =>
    unfold decodeOpcode at h
    dsimp only at h
    split_ifs at h
    · exact namesLowRegs_of_decodeLegacy rfl h
    · exact namesLowRegs_of_decodeVex hm h
    · exact namesLowRegs_of_decodeVex hm h

/-- A decoded instruction is what its opcode and the bytes from there on decode to (30_encoding.md R102). -/
theorem decodeOpcode_of_decode {m : CodeMode} {bs rest : List Byte} {i : Instr} (h : decode m bs = .ok (i, rest)) :
    decodeOpcode m (splitRex (takePrefixes m bs).1).1 (splitRex (takePrefixes m bs).1).2 (takePrefixes m bs).2 =
      .ok (i, rest) := by
  unfold decode at h
  split at h
  · cases h
  · split at h
    · cases h
    · next hop =>
      split at h
      · cases h
      · cases h
        exact hop

theorem namesLowRegs_of_decode {m : CodeMode} {bs rest : List Byte} {i : Instr} (hm : m ≠ .m64)
    (h : decode m bs = .ok (i, rest)) : NamesLowRegs i := by
  have hop := decodeOpcode_of_decode h
  rw [splitRex_snd_eq_none (isRex_takePrefixes hm bs)] at hop
  exact namesLowRegs_of_decodeOpcode hm hop

/-- Settles O20: without a REX byte, and with R, B and the fourth bit of vvvv 0, every register number has three bits. -/
theorem lowRegistersOutside64 : Obligations.LowRegistersOutside64 :=
  fun _ _ _ _ hm h => namesLowRegs_of_decode hm h

end Sys2Proof

namespace Sys2Proof.Machine

/-! ### Runs -/

theorem ymmDst_mem_vecRegs {i : Instr} {d : VecReg} (h : ymmDst i = some d) : d ∈ vecRegs i := by
  cases i <;> cases h <;> exact List.mem_cons_self

theorem SameControl.refl (s : State) : SameControl s s := by
  simp [SameControl]

theorem SameControl.trans {s t u : State} (hst : SameControl s t) (htu : SameControl t u) : SameControl s u := by
  simp_all [SameControl]

/-- A relation that holds of a state and itself, composes, and holds across every step, holds across every run. -/
theorem run_induction {M : Host.Core} {R : M.State → M.State → Prop} (refl : ∀ s, R s s)
    (trans : ∀ {s t u}, R s t → R t u → R s u) (step_rel : ∀ {s t}, M.step s = .next t → R s t) (n : Nat)
    {s t : M.State} (h : M.run n s = .next t) : R s t := by
  induction n generalizing s with
  | zero =>
    cases h
    exact refl _
  | succ n ih =>
    rw [Host.Core.run] at h
    split at h
    · next u hstep => exact trans (step_rel hstep) (ih h)
    · cases h
    · cases h

/-- What no step changes: memory, the control state, and outside 64-bit mode ymm[8] to ymm[15] (10_state.md R23, R31). -/
def KeepsProgram (s t : State) : Prop :=
  t.mem = s.mem ∧ SameControl s t ∧ (s.codeMode ≠ .m64 → ∀ r : VecReg, 8 ≤ r.toNat → t.readYmm r = s.readYmm r)

theorem KeepsProgram.refl (s : State) : KeepsProgram s s := ⟨rfl, .refl s, fun _ _ _ => rfl⟩

theorem KeepsProgram.trans {s t u : State} (hst : KeepsProgram s t) (htu : KeepsProgram t u) : KeepsProgram s u := by
  obtain ⟨hmem, hctl, hymm⟩ := hst
  obtain ⟨hmem', hctl', hymm'⟩ := htu
  refine ⟨hmem'.trans hmem, hctl.trans hctl', fun hm r hr => ?_⟩
  have hm' : t.codeMode ≠ .m64 := hctl.codeMode_eq ▸ hm
  exact (hymm' hm' r hr).trans (hymm hm r hr)

theorem step_keepsProgram {s t : State} (h : step s = .next t) : KeepsProgram s t := by
  obtain ⟨i, ⟨rest, hdec⟩, hexec⟩ := step_next h
  have hdone : CompletedBy i s t := exec_completedBy hexec
  refine ⟨hdone.mem_eq, hdone.sameControl, fun hm r hr => hdone.readYmm_of_ne fun hdst => ?_⟩
  have hlow : r.toNat < 8 := namesLowRegs_of_decode hm hdec r (ymmDst_mem_vecRegs hdst)
  omega

/-- Settles O43, by induction on the number of steps: no step writes memory or control state, and outside 64-bit mode the
destination of a decoded instruction is a low register (O20). -/
theorem runKeepsProgram : Obligations.RunKeepsProgram :=
  fun n _ _ h => run_induction .refl .trans step_keepsProgram n h

end Sys2Proof.Machine
end

section
/-! PROOFS. MemoryChecks: the checks of a memory operand, one equation of `memRead` per row of their order, what executing a form
makes of the stop, and from these the settling of O25, O37 and O38. -/

namespace Sys2Proof.Machine

/-! ### The segment check by mode -/

theorem forall_lt_add_le_iff {n : Nat} (hn : 0 < n) (a b : Nat) : (∀ k < n, a + k ≤ b) ↔ a + n ≤ b + 1 := by
  refine ⟨fun h => ?_, fun h k hk => by omega⟩
  have hlast := h (n - 1) (by omega)
  omega

theorem segOk_real_or_v86_iff {s : State} (hm : s.opMode = .real ∨ s.opMode = .v86) {n : Nat} (hn : 0 < n) (g : Seg)
    (addr : BitVec 64) : s.segOk g addr n = true ↔ ∀ k < n, addr.toNat + k ≤ 0xFFFF := by
  rw [forall_lt_add_le_iff hn]
  rcases hm with hm | hm <;> simp [State.segOk, hm]

/-- A selector is null where its index and its table bit, bits 15:2, are 0 (log 13). -/
theorem isNull_eq_false_iff (r : SegReg) :
    r.isNull = false ↔ ∃ j, 2 ≤ j ∧ j < 16 ∧ r.selector.getLsbD j = true := by
  have mask : ∀ j < 16, (0xFFFC#16).getLsbD j = decide (2 ≤ j) := by decide
  rw [SegReg.isNull, beq_eq_false_iff_ne, ne_eq, ← not_iff_not, not_not]
  constructor
  · rintro hzero ⟨j, h2, h16, hj⟩
    have hbit := congrArg (fun w => w.getLsbD j) hzero
    simp [mask j h16, hj, h2] at hbit
  · intro hnone
    refine BitVec.eq_of_getLsbD_eq fun j hj => ?_
    rw [BitVec.getLsbD_and, mask j hj, BitVec.getLsbD_zero, Bool.and_eq_false_iff, decide_eq_false_iff_not,
      ← Bool.not_eq_true]
    exact not_and_or.1 fun ⟨hset, h2⟩ => hnone ⟨j, h2, hj, hset⟩

theorem segOk_prot_iff {s : State} (hm : s.opMode = .prot) {n : Nat} (hn : 0 < n) (g : Seg) (addr : BitVec 64) :
    s.segOk g addr n = true ↔ (s.segReg g).isNull = false ∧ (s.segReg g).readable = true ∧
      ∀ k < n, addr.toNat + k ≤ (s.segReg g).limit.toNat := by
  simp [forall_lt_add_le_iff hn, State.segOk, hm, and_assoc]

theorem codeMode_eq_of_opMode_long {s : State} (hm : s.opMode = .long) : s.codeMode = .m64 := by
  unfold State.opMode at hm
  split_ifs at hm
  assumption

/-- In 64-bit mode only FS and GS have a base, and linear addresses have 64 bits (20_memory.md R53, R61). -/
theorem linear_long {s : State} (hm : s.opMode = .long) (g : Seg) (addr : BitVec 64) (k : Nat) :
    s.linear g addr k =
      ((if g = .fs ∨ g = .gs then (s.segReg g).base.toNat else 0) + addr.toNat + k) % 2 ^ 64 := by
  have h64 := codeMode_eq_of_opMode_long hm
  cases g <;> simp [State.linear, State.segBase, State.pcSpan, h64]

/-- A 64-bit address is canonical where its top 17 bits are all 0 or all 1 (20_memory.md R53). -/
theorem canonical_iff {a : Nat} (ha : a < 2 ^ 64) :
    canonical a = true ↔
      (BitVec.ofNat 64 a).extractLsb' 47 17 = 0#17 ∨ (BitVec.ofNat 64 a).extractLsb' 47 17 = BitVec.allOnes 17 := by
  simp only [canonical, Bool.or_eq_true, decide_eq_true_eq, ← BitVec.toNat_inj, BitVec.extractLsb'_toNat,
    BitVec.toNat_ofNat, BitVec.toNat_allOnes, Nat.shiftRight_eq_div_pow]
  omega

theorem segOk_long_iff {s : State} (hm : s.opMode = .long) (g : Seg) (addr : BitVec 64) (n : Nat) :
    s.segOk g addr n = true ↔ ∀ k < n,
      (BitVec.ofNat 64 (s.linear g addr k)).extractLsb' 47 17 = 0#17 ∨
        (BitVec.ofNat 64 (s.linear g addr k)).extractLsb' 47 17 = BitVec.allOnes 17 := by
  have hlt : ∀ k, s.linear g addr k < 2 ^ 64 := fun k => linear_long hm g addr k ▸ Nat.mod_lt _ (by decide)
  simp only [State.segOk, hm, List.all_eq_true, List.mem_range]
  exact forall₂_congr fun k _ => canonical_iff (hlt k)

/-- Settles O25, mode by mode. -/
theorem segmentCheck : Obligations.SegmentCheck := by
  intro s g addr n hn
  refine ⟨fun hm => segOk_real_or_v86_iff hm hn g addr, fun hm => ?_,
    fun hm => ⟨segOk_long_iff hm g addr n, linear_long hm g addr⟩⟩
  rw [← isNull_eq_false_iff]
  exact segOk_prot_iff hm hn g addr

/-! ### The fault of the segment check -/

theorem ssIsGp_iff (s : State) (c : Cls) :
    s.ssIsGp c = true ↔ c ≠ .mmx ∧ s.params.type4 = .table ∧ (s.opMode = .real ∨ s.opMode = .v86) := by
  simp [State.ssIsGp, and_assoc]

/-- The fault of a failed segment check, in the words of 20_memory.md R53 and the table of 60_exceptions.md R205 (log 13). -/
theorem segFault_eq (s : State) (c : Cls) (g : Seg) :
    s.segFault c g =
      if g = .ss ∧ ¬ (s.opMode = .prot ∧ (s.segReg .ss).isNull = true) ∧
          ¬ (c ≠ .mmx ∧ s.params.type4 = .table ∧ (s.opMode = .real ∨ s.opMode = .v86))
        then .ss else .gp := by
  rw [State.segFault]
  refine if_congr (and_congr_right fun hg => ?_) rfl rfl
  rw [hg, ← ssIsGp_iff, Bool.not_eq_true (s.ssIsGp c)]

/-! ### The read of a memory operand, check by check -/

/-- The checks that come before the translation pass: the segment, the end of the effective-address space, the boundary
(20_memory.md R52, R53, R56, R57, R62). -/
def Placed (s : State) (c : Cls) (g : Seg) (asz : AddrSize) (addr : BitVec 64) : Prop :=
  s.segPass g addr (operandSize c) = true ∧ addr.toNat + operandSize c ≤ addrSpan asz ∧ addr.toNat % boundary s c = 0

section
variable {s : State} {c : Cls} {g : Seg} {asz : AddrSize} {addr : BitVec 64} (w : Nat)

theorem memRead_segFault (h : s.segPass g addr (operandSize c) = false) :
    memRead w s c g asz addr = .error (.exc (s.segFault c g)) := if_pos h

theorem memRead_pastEnd (hseg : s.segPass g addr (operandSize c) = true)
    (h : addrSpan asz < addr.toNat + operandSize c) : memRead w s c g asz addr = .error (.refuse .operandPastEnd) := by
  simp [memRead, hseg, h]

theorem memRead_offBoundary (hseg : s.segPass g addr (operandSize c) = true)
    (hend : addr.toNat + operandSize c ≤ addrSpan asz) (h : addr.toNat % boundary s c ≠ 0) :
    memRead w s c g asz addr = .error (.exc .gp) := by
  simp [memRead, hseg, Nat.not_lt.2 hend, h]

theorem memRead_transStop (h : Placed s c g asz addr) {e : Stop} (ht : s.transStop g addr (operandSize c) = some e) :
    memRead w s c g asz addr = .error e := by
  obtain ⟨hseg, hend, hbound⟩ := h
  simp [memRead, hseg, Nat.not_lt.2 hend, hbound, ht]

theorem memRead_ac (h : Placed s c g asz addr) (ht : s.transStop g addr (operandSize c) = none) (hac : AcFails s c addr) :
    memRead w s c g asz addr = .error (.exc .ac) := by
  obtain ⟨hseg, hend, -⟩ := h
  obtain ⟨rfl, hdefault, hon, hodd⟩ := hac
  simp [memRead, hseg, Nat.not_lt.2 hend, Nat.mod_one, ht, hdefault, hon, hodd]

theorem memRead_device (h : Placed s c g asz addr) (ht : s.transStop g addr (operandSize c) = none)
    (hac : ¬ AcFails s c addr) (hdev : ∃ k < operandSize c, s.isDevice (s.linear g addr k) = true) :
    memRead w s c g asz addr = .error (.refuse .deviceOperand) := by
  obtain ⟨hseg, hend, hbound⟩ := h
  have hany : (s.operandBytes g addr 0 (operandSize c)).any s.isDevice = true := by
    simpa [State.operandBytes] using hdev
  unfold AcFails at hac
  simp only [memRead, hseg, Nat.not_lt.2 hend, hbound, ht, hac, hany, ne_eq, not_true_eq_false, reduceCtorEq, if_false,
    if_true]

end

/-! ### The translation and its page fault -/

/-- The translation stops by the first fetched byte that stops (20_memory.md R63, decision D27). -/
theorem transStop_of_first {s : State} {g : Seg} {addr : BitVec 64} {n k : Nat} {e : Stop} (hstart : s.fetchStart n ≤ k)
    (hk : k < n) (hbefore : ∀ j, s.fetchStart n ≤ j → j < k → s.byteStop (s.linear g addr j) = none)
    (he : s.byteStop (s.linear g addr k) = some e) : s.transStop g addr n = some e := by
  obtain ⟨p, hp⟩ : ∃ p, k = s.fetchStart n + p := ⟨k - s.fetchStart n, by omega⟩
  obtain ⟨q, hq⟩ : ∃ q, n - s.fetchStart n = p + (q + 1) := ⟨n - k - 1, by omega⟩
  have hnone : (List.range' (s.fetchStart n) p).findSome? (s.byteStop ∘ s.linear g addr) = none := by
    rw [List.findSome?_eq_none_iff]
    intro j hj
    obtain ⟨hlow, hhigh⟩ := List.mem_range'_1.1 hj
    exact hbefore j hlow (by omega)
  rw [State.transStop, State.operandBytes, List.findSome?_map, hq, ← List.range'_append_1, List.findSome?_append, hnone,
    Option.none_or, ← hp, List.range'_succ, List.findSome?_cons, Function.comp_apply, he]

/-- The bits of the error code that 20_memory.md R63 names. -/
theorem pfCode_bits (s : State) (present : Bool) :
    (s.pfCode present).getLsbD 0 = present ∧ (s.pfCode present).getLsbD 1 = false ∧
      (s.pfCode present).getLsbD 2 = (s.cpl == 3#2) ∧ (s.pfCode present).getLsbD 4 = false := by
  by_cases h : s.cpl = 3#2 <;> cases present <;> simp [State.pfCode, h]

theorem byteStop_pageFault {s : State} {a : Nat} (hm : s.opMode ≠ .real)
    (h : s.isPresent a = false ∨ s.isProtected a = true) :
    s.byteStop a = some (.exc (.pf (s.pfCode (s.isPresent a)) (BitVec.ofNat 64 a))) := by
  cases hp : s.isPresent a <;> simp_all [State.byteStop]

theorem byteStop_noMemory {s : State} {a : Nat} (hm : s.opMode = .real) (h : s.isPresent a = false) :
    s.byteStop a = some (.noMemory a) := by
  simp [State.byteStop, hm, h]

/-! ### Executing a form -/

/-- A usable form whose memory operand cannot be read stops by what the read stops by (60_exceptions.md R211). -/
theorem exec_of_memRead_error {s : State} {i : Instr} {o : MemOp} {e : Stop} (ho : i.mem? = some o)
    (huse : FormUsable i.cls i.elem s (some (o.seg, s.effAddr i.len o)))
    (hread : memRead (8 * operandSize i.cls) s i.cls o.seg o.asz (s.effAddr i.len o) = .error e) :
    exec i s = s.finish (.error e) := by
  have hop : operandAt i s = some (o.seg, s.effAddr i.len o) := by simp [operandAt, ho]
  have hstop : operandRead i s = .error e := by simp [operandRead, ho, memOperandRead, hread, Except.map]
  have hcheck : usable i.cls i.elem s (operandAt i s) = .ok () := (usable_ok_iff ..).2 (hop ▸ huse)
  rcases exec_cases i s with ⟨-, hok, -⟩ | ⟨e', he', -⟩ | ⟨-, e', he', hexec⟩
  · exact nomatch hok.symm.trans hstop
  · exact nomatch he'.symm.trans hcheck
  · cases he'.symm.trans hstop
    exact hexec

/-- Settles O37: each premise is what one row of the order of checks needs, and the form stops by that row. -/
theorem memoryFaultOrder : Obligations.MemoryFaultOrder := by
  rintro s i o _ _ ho rfl rfl huse
  refine ⟨fun hseg => ?_, fun hseg hend => exec_of_memRead_error ho huse (memRead_pastEnd _ hseg hend),
    fun hseg hend hoff => exec_of_memRead_error ho huse (memRead_offBoundary _ hseg hend hoff),
    fun hseg hend hbound hbytes => ?_⟩
  · rw [← segFault_eq]
    exact exec_of_memRead_error ho huse (memRead_segFault _ hseg)
  · have hplaced : Placed s i.cls o.seg o.asz (s.effAddr i.len o) := ⟨hseg, hend, hbound⟩
    have htrans := (transStop_none_iff s o.seg (s.effAddr i.len o) (operandSize i.cls)).2 hbytes
    exact ⟨fun hac => exec_of_memRead_error ho huse (memRead_ac _ hplaced htrans hac),
      fun hac hdev => exec_of_memRead_error ho huse (memRead_device _ hplaced htrans hac hdev)⟩

/-- Settles O38: the translation stops by the first byte that stops, and that byte stops by a page fault, or in real-address mode by
the model's own fault (log 5). -/
theorem pageFaultReport : Obligations.PageFaultReport := by
  rintro s i o _ _ k ho rfl rfl huse hseg hend hbound hstart hk hbefore
  have hexec : ∀ e, s.byteStop (s.linear o.seg (s.effAddr i.len o) k) = some e → exec i s = s.finish (.error e) :=
    fun e he => exec_of_memRead_error ho huse
      (memRead_transStop _ ⟨hseg, hend, hbound⟩ (transStop_of_first hstart hk hbefore he))
  exact ⟨fun hm hbyte => ⟨_, hexec _ (byteStop_pageFault hm hbyte), pfCode_bits s _⟩,
    fun hm habsent => hexec _ (byteStop_noMemory hm habsent)⟩

end Sys2Proof.Machine
end

section
/-! PROOFS. MemoryOperands: the run of prefixes that the decoder reads, the memory operand that it makes, and from these the
settling of O24. -/

namespace Sys2Proof

/-! ### The run of prefixes -/

theorem prefixOf_toByte {m : CodeMode} {p : Pfx} (h : m = .m64 ∨ p.isRex = false) : prefixOf m p.toByte = some p := by
  cases p with
  | rex r =>
    obtain rfl : m = .m64 := by simpa [Pfx.isRex] using h
    obtain ⟨w, r, x, b⟩ := r
    revert w r x b
    decide
  | seg g => cases g <;> cases m <;> rfl
  | opSize | addrSize | lock | repne | rep => cases m <;> rfl

theorem pfxOfByte_rexToByte (r : Rex) : pfxOfByte r.toByte = none := by
  obtain ⟨w, r, x, b⟩ := r
  revert w r x b
  decide

/-- A REX byte is no first opcode or VEX byte (30_encoding.md R102). -/
theorem decodeOpcode_rexToByte (m : CodeMode) (ps : List Pfx) (rex : Option Rex) (r : Rex) (bs : List Byte) :
    decodeOpcode m ps rex (r.toByte :: bs) = .error .notOnPage := by
  have hne : r.toByte ≠ 0x0F#8 ∧ r.toByte ≠ 0xC5#8 ∧ r.toByte ≠ 0xC4#8 := by
    obtain ⟨w, r, x, b⟩ := r
    revert w r x b
    decide
  simp [decodeOpcode, hne]

/-- Bytes written for prefixes are read as those prefixes, or, outside 64-bit mode, up to the first REX byte among them. -/
theorem takePrefixes_map_toByte {m : CodeMode} {b : Byte} (hb : prefixOf m b = none) (qs : List Pfx) (tail : List Byte) :
    takePrefixes m (qs.map Pfx.toByte ++ b :: tail) = (qs, b :: tail) ∨
      ∃ r bs, (takePrefixes m (qs.map Pfx.toByte ++ b :: tail)).2 = Rex.toByte r :: bs := by
  induction qs with
  | nil => exact .inl (by simp [takePrefixes, hb])
  | cons p qs ih =>
    by_cases hread : m = .m64 ∨ p.isRex = false
    · rw [List.map_cons, List.cons_append, takePrefixes, prefixOf_toByte hread]
      exact ih.imp (fun h => by simp [h]) id
    · obtain ⟨hm, hrex⟩ := not_or.1 hread
      cases p with
      | rex r =>
        have hstop : prefixOf m r.toByte = none := (prefixOf_of_ne_m64 hm _).trans (pfxOfByte_rexToByte r)
        exact .inr ⟨r, qs.map Pfx.toByte ++ b :: tail, by simp [takePrefixes, Pfx.toByte, hstop]⟩
      | opSize | addrSize | seg _ | lock | repne | rep => exact absurd rfl hrex

theorem prefixBytes_eq_map (ps : List Pfx) (rx : Option Rex) :
    Machine.prefixBytes ps rx = (ps ++ (rx.map Pfx.rex).toList).map Pfx.toByte := by
  cases rx <;> simp [Machine.prefixBytes, Pfx.toByte]

/-- Where bytes written for prefixes and a REX byte decode, the decoder reads those prefixes and that REX byte. -/
theorem takePrefixes_of_decode {m : CodeMode} {ps : List Pfx} {rx : Option Rex} {b : Byte} {tail rest : List Byte} {i : Instr}
    (hb : prefixOf m b = none) (h : decode m (Machine.prefixBytes ps rx ++ b :: tail) = .ok (i, rest)) :
    takePrefixes m (Machine.prefixBytes ps rx ++ b :: tail) = (ps ++ (rx.map Pfx.rex).toList, b :: tail) := by
  have hop := decodeOpcode_of_decode h
  rw [prefixBytes_eq_map] at hop ⊢
  rcases takePrefixes_map_toByte hb (ps ++ (rx.map Pfx.rex).toList) tail with hrun | ⟨r, bs, hrex⟩
  · exact hrun
  · rw [hrex, decodeOpcode_rexToByte] at hop
    cases hop

theorem not_repeated_of_decode {m : CodeMode} {bs rest : List Byte} {i : Instr} (h : decode m bs = .ok (i, rest)) :
    repeated (takePrefixes m bs).1 = false := by
  unfold decode at h
  split at h
  · cases h
  · next hr => simpa using hr

theorem ne_rex_of_isRex {p : Pfx} (hp : p.isRex = false) (r : Rex) : p ≠ .rex r := by
  rintro rfl
  cases hp

/-- Setting the last REX byte apart takes nothing else away (30_encoding.md R92). -/
theorem mem_splitRex_fst {p : Pfx} (hp : p.isRex = false) (ps : List Pfx) : p ∈ (splitRex ps).1 ↔ p ∈ ps := by
  induction ps using splitRex.induct with
  | case1 => rfl
  | case2 r => simp [splitRex, ne_rex_of_isRex hp r]
  | case3 q ps hne ih => rw [splitRex.eq_3 q ps hne, List.mem_cons, List.mem_cons, ih]

theorem overrideOf_splitRex_fst (ps : List Pfx) : overrideOf (splitRex ps).1 = overrideOf ps := by
  induction ps using splitRex.induct with
  | case1 => rfl
  | case2 r => rfl
  | case3 q ps hne ih =>
    rw [splitRex.eq_3 q ps hne]
    cases q with
    | seg g => rfl
    | opSize | addrSize | lock | repne | rep | rex _ => exact ih

/-! ### The segment override -/

theorem mem_of_overrideOf {ps : List Pfx} {g : Seg} (h : overrideOf ps = some g) : Pfx.seg g ∈ ps := by
  induction ps with
  | nil => cases h
  | cons p ps ih =>
    cases p with
    | seg g' =>
      cases h
      exact List.mem_cons_self
    | opSize | addrSize | lock | repne | rep | rex _ => exact List.mem_cons_of_mem _ (ih h)

/-- Where no two overrides stand among the prefixes, each one there is the override (30_encoding.md R91). -/
theorem overrideOf_of_mem {ps : List Pfx} {g : Seg} (hr : repeated ps = false) (h : Pfx.seg g ∈ ps) :
    overrideOf ps = some g := by
  induction ps with
  | nil => cases h
  | cons p ps ih =>
    rw [repeated, Bool.or_eq_false_iff, List.any_eq_false] at hr
    obtain ⟨hclash, hr⟩ := hr
    rcases List.mem_cons.1 h with rfl | htail
    · rfl
    · cases p with
      | seg g' => exact absurd rfl (hclash _ htail)
      | opSize | addrSize | lock | repne | rep | rex _ => exact ih hr htail

theorem overrideCounts_iff (m : CodeMode) (g : Seg) : overrideCounts m g = true ↔ m ≠ .m64 ∨ g = .fs ∨ g = .gs := by
  simp [overrideCounts, or_assoc]

theorem segOf_of_override {m : CodeMode} {ps : List Pfx} {g : Seg} (h : overrideOf ps = some g)
    (hc : m ≠ .m64 ∨ g = .fs ∨ g = .gs) (f : AddrForm) : segOf m ps f = g := by
  simp [segOf, h, (overrideCounts_iff m g).2 hc]

theorem segOf_of_no_override {m : CodeMode} {ps : List Pfx}
    (h : ∀ g, overrideOf ps = some g → m = .m64 ∧ g ≠ .fs ∧ g ≠ .gs) (f : AddrForm) :
    segOf m ps f = defaultSeg f := by
  cases ho : overrideOf ps with
  | none => simp [segOf, ho]
  | some g => simp [segOf, ho, overrideCounts, h g ho]

theorem defaultSeg_eq_ss_or_ds (f : AddrForm) : defaultSeg f = .ss ∨ defaultSeg f = .ds := by
  cases f with
  | base _ _ | sib _ _ _ _ | regs16 _ _ => exact ite_eq_or_eq ..
  | sibNoBase _ _ _ | abs32 _ | ripRel _ | abs16 _ => exact .inr rfl

/-- In 64-bit mode no memory operand is reached through ES or CS (30_encoding.md R91). -/
theorem segOf_m64 (ps : List Pfx) (f : AddrForm) : segOf .m64 ps f ≠ .es ∧ segOf .m64 ps f ≠ .cs := by
  by_cases hc : ∃ g, overrideOf ps = some g ∧ (g = .fs ∨ g = .gs)
  · obtain ⟨g, ho, hg⟩ := hc
    rw [segOf_of_override ho (.inr hg)]
    rcases hg with rfl | rfl <;> decide
  · have hnone : ∀ g, overrideOf ps = some g → CodeMode.m64 = .m64 ∧ g ≠ .fs ∧ g ≠ .gs :=
      fun g ho => ⟨rfl, fun hg => hc ⟨g, ho, .inl hg⟩, fun hg => hc ⟨g, ho, .inr hg⟩⟩
    rw [segOf_of_no_override hnone]
    rcases defaultSeg_eq_ss_or_ds f with hs | hs <;> rw [hs] <;> decide

/-- With 32- and 64-bit addressing SS is the default exactly where a base register has number 4 or 5 (30_encoding.md R87, R90). -/
theorem defaultSeg_of_not_16 {f : AddrForm} (h16 : ¬ ((∃ rm d, f = .regs16 rm d) ∨ ∃ v, f = .abs16 v)) :
    (defaultSeg f = .ss ∨ defaultSeg f = .ds) ∧
      (defaultSeg f = .ss ↔ ∃ r : GenReg, (r = 4#4 ∨ r = 5#4) ∧
        ((∃ d, f = .base r d) ∨ ∃ x sc d, f = .sib r x sc d)) := by
  have hstack : ∀ r : GenReg, stackBase r = true ↔ r = 4#4 ∨ r = 5#4 := by simp [stackBase]
  refine ⟨defaultSeg_eq_ss_or_ds f, ?_⟩
  cases f with
  | base r d | sib r i sc d => simp [defaultSeg, ← hstack]
  | sibNoBase i sc d | abs32 d | ripRel d => simp [defaultSeg]
  | regs16 rm d => exact absurd (.inl ⟨rm, d, rfl⟩) h16
  | abs16 v => exact absurd (.inr ⟨v, rfl⟩) h16

/-! ### The memory operand -/

theorem exists_of_map_eq_ok {ε α β : Type} {f : α → β} {r : Except ε α} {y : β} (h : r.map f = .ok y) :
    ∃ x, r = .ok x ∧ f x = y := by
  cases r with
  | error e => cases h
  | ok x => exact ⟨x, rfl, by injection h⟩

@[simp] theorem highReg_extReg (hi : Bool) (lo : BitVec 3) : highReg (extReg hi lo) = hi := by
  revert hi lo
  decide

@[simp] theorem lowReg_extReg (hi : Bool) (lo : BitVec 3) : lowReg (extReg hi lo) = lo := by
  revert hi lo
  decide

/-- A displacement of 32- or 64-bit addressing is absent only where mod is 00B (30_encoding.md R87). -/
theorem takeDisp32_ok {mod : BitVec 2} {bs rest : List Byte} {d : Disp} (h : takeDisp32 mod bs = .ok (d, rest)) :
    dispOk32 d = true ∧ (d = .absent → mod = 0#2) := by
  unfold takeDisp32 at h
  split_ifs at h with h0
  · cases h
    exact ⟨rfl, fun _ => h0⟩
  · obtain ⟨v, -, hv⟩ := exists_of_map_eq_ok h
    cases hv
    exact ⟨rfl, nofun⟩
  · obtain ⟨v, -, hv⟩ := exists_of_map_eq_ok h
    cases hv
    exact ⟨rfl, nofun⟩

theorem takeDisp16_ok {mod : BitVec 2} {bs rest : List Byte} {d : Disp} (h : takeDisp16 mod bs = .ok (d, rest)) :
    dispOk16 d = true ∧ (d = .absent → mod = 0#2) := by
  unfold takeDisp16 at h
  split_ifs at h with h0
  · cases h
    exact ⟨rfl, fun _ => h0⟩
  · obtain ⟨v, -, hv⟩ := exists_of_map_eq_ok h
    cases hv
    exact ⟨rfl, nofun⟩
  · obtain ⟨v, -, hv⟩ := exists_of_map_eq_ok h
    cases hv
    exact ⟨rfl, nofun⟩

theorem formOk_of_takeForm16 {m : CodeMode} {x b : Bool} {mod : BitVec 2} {rm : BitVec 3} {bs rest : List Byte}
    {f : AddrForm} (h : takeForm16 mod rm bs = .ok (f, rest)) : formOk m .a16 x b f = true := by
  unfold takeForm16 at h
  split_ifs at h with habs
  · obtain ⟨v, -, hv⟩ := exists_of_map_eq_ok h
    cases hv
    rfl
  · obtain ⟨⟨d, rest'⟩, hd, hv⟩ := exists_of_map_eq_ok h
    cases hv
    obtain ⟨hdisp, hmod⟩ := takeDisp16_ok hd
    have hbp : ¬ rm = 6#3 ∨ ¬ d = .absent := not_and_or.1 fun ⟨hrm, hd⟩ => habs ⟨hmod hd, hrm⟩
    simpa [formOk, hdisp] using hbp

theorem formOk_of_takeSib {m : CodeMode} {asz : AddrSize} {x b : Bool} {mod : BitVec 2} {bs rest : List Byte}
    {f : AddrForm} (hasz : asz ≠ .a16) (h : takeSib x b mod bs = .ok (f, rest)) : formOk m asz x b f = true := by
  cases bs with
  | nil => cases h
  | cons sib bs =>
    unfold takeSib at h
    dsimp only at h
    split_ifs at h with hnobase
    · obtain ⟨v, -, hv⟩ := exists_of_map_eq_ok h
      cases hv
      simp [formOk, hasz]
    · obtain ⟨⟨d, rest'⟩, hd, hv⟩ := exists_of_map_eq_ok h
      cases hv
      obtain ⟨hdisp, hmod⟩ := takeDisp32_ok hd
      have hbase : ¬ fieldLo sib = 5#3 ∨ ¬ d = .absent := not_and_or.1 fun ⟨hlo, hd⟩ => hnobase ⟨hmod hd, hlo⟩
      simpa [formOk, hasz, hdisp] using hbase

theorem formOk_of_takeForm32 {m : CodeMode} {asz : AddrSize} {x b : Bool} {mod : BitVec 2} {rm : BitVec 3}
    {bs rest : List Byte} {f : AddrForm} (hasz : asz ≠ .a16) (h : takeForm32 m x b mod rm bs = .ok (f, rest)) :
    formOk m asz x b f = true := by
  unfold takeForm32 at h
  split_ifs at h with hsib habs hm
  · exact formOk_of_takeSib hasz h
  · obtain ⟨v, -, hv⟩ := exists_of_map_eq_ok h
    cases hv
    simp [formOk, hasz, hm]
  · obtain ⟨v, -, hv⟩ := exists_of_map_eq_ok h
    cases hv
    simp [formOk, hasz, hm]
  · obtain ⟨⟨d, rest'⟩, hd, hv⟩ := exists_of_map_eq_ok h
    cases hv
    obtain ⟨hdisp, hmod⟩ := takeDisp32_ok hd
    have hbase : ¬ rm = 5#3 ∨ ¬ d = .absent := not_and_or.1 fun ⟨hlo, hd⟩ => habs ⟨hmod hd, hlo⟩
    simpa [formOk, hasz, hdisp, hsib] using hbase

/-- The memory operand that the decoder makes has the address size and the segment of its mode and prefixes, and a form that its
bytes can spell (30_encoding.md R87 to R91). -/
theorem memOk_of_takeMem {m : CodeMode} {ps : List Pfx} {x b : Bool} {mod : BitVec 2} {rm : BitVec 3} {bs rest : List Byte}
    {o : MemOp} (h : takeMem m ps x b mod rm bs = .ok (o, rest)) : memOk m ps x b o = true := by
  obtain ⟨⟨f, rest'⟩, hf, ho⟩ := exists_of_map_eq_ok h
  cases ho
  have hform : formOk m (addrSizeOf m ps) x b f = true := by
    split_ifs at hf with hasz
    · exact hasz ▸ formOk_of_takeForm16 hf
    · exact formOk_of_takeForm32 hasz hf
  simp [memOk, hform]

theorem memOk_of_takeRM {k : Nat} {m : CodeMode} {ps : List Pfx} {x b : Bool} {mkReg : BitVec 3 → BitVec k} {modrm : Byte}
    {bs rest : List Byte} {src : RM k} {o : MemOp} (h : takeRM m ps x b mkReg modrm bs = .ok (src, rest))
    (ho : src.mem? = some o) : memOk m ps x b o = true := by
  unfold takeRM at h
  split at h
  · cases h
    cases ho
  · obtain ⟨⟨o', rest'⟩, hmem, hsrc⟩ := exists_of_map_eq_ok h
    cases hsrc
    cases ho
    exact memOk_of_takeMem hmem

/-! ### The memory operand of a decoded instruction -/

theorem mem?_mmxInstr {e : LegacyEnc} {d : MmReg} {src : RM 3} {el : Elem} {i : Instr} (h : mmxInstr e d src el = some i) :
    i.mem? = src.mem? := by
  cases el <;> cases h <;> rfl

theorem mem?_sseInstr (e : LegacyEnc) (d : VecReg) (src : RM 4) (el : Elem) : (sseInstr e d src el).mem? = src.mem? := by
  cases el <;> rfl

theorem mem?_vexInstr (e : VexEnc) (d a : VecReg) (src : RM 4) (l : Bool) (el : Elem) :
    (vexInstr e d a src l el).mem? = src.mem? := by
  cases l <;> cases el <;> rfl

/-- The memory operand of an instruction, if it has one, is one that the mode and the prefixes give. -/
def MemOperandOk (m : CodeMode) (ps : List Pfx) (i : Instr) : Prop := ∀ o, i.mem? = some o → ∃ x b, memOk m ps x b o = true

theorem memOperandOk_of_takeMmxOperands {m : CodeMode} {e : LegacyEnc} {el : Elem} {bs rest : List Byte} {i : Instr}
    (h : takeMmxOperands m e el bs = .ok (i, rest)) : MemOperandOk m e.pfx i := by
  cases bs with
  | nil => cases h
  | cons modrm bs =>
    unfold takeMmxOperands at h
    dsimp only at h
    split at h
    · cases h
    · next hrm =>
      split at h
      · next hi =>
        cases h
        exact fun o ho => ⟨_, _, memOk_of_takeRM hrm (mem?_mmxInstr hi ▸ ho)⟩
      · cases h

theorem memOperandOk_of_takeSseOperands {m : CodeMode} {e : LegacyEnc} {el : Elem} {bs rest : List Byte} {i : Instr}
    (h : takeSseOperands m e el bs = .ok (i, rest)) : MemOperandOk m e.pfx i := by
  cases bs with
  | nil => cases h
  | cons modrm bs =>
    obtain ⟨p, hrm, hi⟩ := exists_of_map_eq_ok h
    cases hi
    exact fun o ho => ⟨_, _, memOk_of_takeRM hrm (mem?_sseInstr .. ▸ ho)⟩

theorem memOperandOk_of_takeVexOperands {m : CodeMode} {e : VexEnc} {src1 : VecReg} {l : Bool} {el : Elem}
    {bs rest : List Byte} {i : Instr} (h : takeVexOperands m e src1 l el bs = .ok (i, rest)) : MemOperandOk m e.pfx i := by
  cases bs with
  | nil => cases h
  | cons modrm bs =>
    obtain ⟨p, hrm, hi⟩ := exists_of_map_eq_ok h
    cases hi
    exact fun o ho => ⟨_, _, memOk_of_takeRM hrm (mem?_vexInstr .. ▸ ho)⟩

theorem memOperandOk_of_decodeLegacy {m : CodeMode} {e : LegacyEnc} {bs rest : List Byte} {i : Instr}
    (h : decodeLegacy m e bs = .ok (i, rest)) : MemOperandOk m e.pfx i := by
  cases bs with
  | nil => cases h
  | cons op bs =>
    unfold decodeLegacy at h
    dsimp only at h
    split at h
    · cases h
    · split_ifs at h
      · exact memOperandOk_of_takeSseOperands h
      · exact memOperandOk_of_takeMmxOperands h

theorem memOperandOk_of_decodeVexTail {m : CodeMode} {ps : List Pfx} {v : VexPrefix} {mapOk : Bool} {last : Byte}
    {bs rest : List Byte} {i : Instr} (h : decodeVexTail m ps v mapOk last bs = .ok (i, rest)) : MemOperandOk m ps i := by
  cases bs with
  | nil => cases h
  | cons op bs =>
    unfold decodeVexTail at h
    dsimp only at h
    split at h
    · cases h
    · split_ifs at h
      exact memOperandOk_of_takeVexOperands h

theorem memOperandOk_of_decodeVex {m : CodeMode} {ps : List Pfx} {rex : Option Rex} {three : Bool} {bs rest : List Byte}
    {i : Instr} (h : decodeVex m ps rex three bs = .ok (i, rest)) : MemOperandOk m ps i := by
  cases bs with
  | nil => cases h
  | cons b1 bs =>
    unfold decodeVex at h
    dsimp only at h
    split_ifs at h
    · cases bs with
      | nil => cases h
      | cons b2 bs => exact memOperandOk_of_decodeVexTail h
    · exact memOperandOk_of_decodeVexTail h

theorem memOperandOk_of_decodeOpcode {m : CodeMode} {ps : List Pfx} {rex : Option Rex} {bs rest : List Byte} {i : Instr}
    (h : decodeOpcode m ps rex bs = .ok (i, rest)) : MemOperandOk m ps i := by
  cases bs with
  | nil => cases h
  | cons b bs =>
    unfold decodeOpcode at h
    dsimp only at h
    split_ifs at h
    · exact memOperandOk_of_decodeLegacy h
    · exact memOperandOk_of_decodeVex h
    · exact memOperandOk_of_decodeVex h

/-! ### The address size -/

theorem addrSizeOf_m64 (ps : List Pfx) :
    (addrSizeOf .m64 ps = .a32 ↔ Pfx.addrSize ∈ ps) ∧ (addrSizeOf .m64 ps = .a64 ↔ Pfx.addrSize ∉ ps) := by
  by_cases h : Pfx.addrSize ∈ ps <;> simp [addrSizeOf, h]

theorem addrSizeOf_m32 (ps : List Pfx) :
    (addrSizeOf .m32 ps = .a16 ↔ Pfx.addrSize ∈ ps) ∧ (addrSizeOf .m32 ps = .a32 ↔ Pfx.addrSize ∉ ps) := by
  by_cases h : Pfx.addrSize ∈ ps <;> simp [addrSizeOf, h]

theorem addrSizeOf_m16 (ps : List Pfx) :
    (addrSizeOf .m16 ps = .a32 ↔ Pfx.addrSize ∈ ps) ∧ (addrSizeOf .m16 ps = .a16 ↔ Pfx.addrSize ∉ ps) := by
  by_cases h : Pfx.addrSize ∈ ps <;> simp [addrSizeOf, h]

/-- The 16-bit forms are exactly the forms of 16-bit addressing (30_encoding.md R89). -/
theorem a16_iff_of_formOk {m : CodeMode} {asz : AddrSize} {x b : Bool} {f : AddrForm} (h : formOk m asz x b f = true) :
    asz = .a16 ↔ (∃ rm d, f = .regs16 rm d) ∨ ∃ v, f = .abs16 v := by
  cases f <;> simp_all [formOk]

/-- With 16-bit addressing BP makes SS the default segment: a form of r/m 110B has a displacement (30_encoding.md R89). -/
theorem defaultSeg_regs16_of_formOk {m : CodeMode} {asz : AddrSize} {x b : Bool} {rm : BitVec 3} {d : Disp}
    (h : formOk m asz x b (.regs16 rm d) = true) :
    defaultSeg (.regs16 rm d) = if rm = 2#3 ∨ rm = 3#3 ∨ rm = 6#3 then .ss else .ds := by
  have hbp : rm = 6#3 → d ≠ .absent := fun hrm hd => by simp [formOk, hrm, hd] at h
  refine if_congr ?_ rfl rfl
  by_cases h6 : rm = 6#3 <;> simp [h6, hbp]

/-- The memory operand of a decoded instruction has the segment and address size of the prefixes written before it. -/
theorem memOperand_of_decode {m : CodeMode} {ps : List Pfx} {rx : Option Rex} {b : Byte} {tail rest : List Byte} {i : Instr}
    {o : MemOp} (hb : prefixOf m b = none) (h : decode m (Machine.prefixBytes ps rx ++ b :: tail) = .ok (i, rest))
    (ho : i.mem? = some o) :
    ∃ qs, (∀ g, overrideOf qs = some g ↔ Pfx.seg g ∈ ps) ∧ (Pfx.addrSize ∈ qs ↔ Pfx.addrSize ∈ ps) ∧
      ∃ x b, memOk m qs x b o = true := by
  have hop := decodeOpcode_of_decode h
  have hrep := not_repeated_of_decode h
  rw [takePrefixes_of_decode hb h] at hop hrep
  have hmem : ∀ p : Pfx, p.isRex = false → (p ∈ ps ++ (rx.map Pfx.rex).toList ↔ p ∈ ps) := by
    intro p hp
    cases rx with
    | none => simp
    | some r => simp [ne_rex_of_isRex hp r]
  refine ⟨_, fun g => ?_, ?_, memOperandOk_of_decodeOpcode hop o ho⟩
  · rw [overrideOf_splitRex_fst, ← hmem _ rfl]
    exact ⟨mem_of_overrideOf, overrideOf_of_mem hrep⟩
  · rw [mem_splitRex_fst rfl, hmem _ rfl]

/-- Settles O24, from the override and the address size of the decoded memory operand and from its form. -/
theorem segmentChoice : Obligations.SegmentChoice := by
  intro m ps rx b tail rest i o hb hdec ho
  obtain ⟨qs, hover, hsize, x, b', hok⟩ := memOperand_of_decode hb hdec ho
  simp only [memOk, Bool.and_eq_true, beq_iff_eq] at hok
  obtain ⟨⟨hasz, hseg⟩, hform⟩ := hok
  have h16 := a16_iff_of_formOk hform
  refine ⟨fun g hg hc => hseg.trans (segOf_of_override ((hover g).2 hg) hc _), fun hnone => ?_, h16, ?_, ?_, ?_⟩
  · have hdefault : o.seg = defaultSeg o.form :=
      hseg.trans (segOf_of_no_override (fun g hg => hnone g ((hover g).1 hg)) _)
    rw [hdefault]
    refine ⟨fun hne => defaultSeg_of_not_16 (h16.not.1 hne), fun rm d hf => ?_, fun v hf => ?_⟩
    · rw [hf]
      exact defaultSeg_regs16_of_formOk (hf ▸ hform)
    · rw [hf]
      rfl
  · rintro rfl
    obtain ⟨hes, hcs⟩ := segOf_m64 qs o.form
    rw [hseg, hasz, ← hsize]
    exact ⟨hes, hcs, addrSizeOf_m64 qs⟩
  · rintro rfl
    rw [hasz, ← hsize]
    exact addrSizeOf_m32 qs
  · rintro rfl
    rw [hasz, ← hsize]
    exact addrSizeOf_m16 qs

end Sys2Proof
end

section
/-! PROOFS. OperandBytes: the fields of the encoding bytes, and for each part of an operand one statement: the decoder answers it
exactly where the encoder's bytes for it stand. -/

namespace Sys2Proof

/-! ### Fields -/

theorem joinFields_eq_iff {hi : BitVec 2} {mid lo : BitVec 3} {b : Byte} :
    b = joinFields hi mid lo ↔ fieldHi b = hi ∧ fieldMid b = mid ∧ fieldLo b = lo := by
  constructor
  · rintro rfl
    revert hi mid lo
    decide
  · rintro ⟨rfl, rfl, rfl⟩
    revert b
    decide

@[simp] theorem fieldHi_joinFields (hi : BitVec 2) (mid lo : BitVec 3) : fieldHi (joinFields hi mid lo) = hi :=
  (joinFields_eq_iff.1 rfl).1

@[simp] theorem fieldMid_joinFields (hi : BitVec 2) (mid lo : BitVec 3) : fieldMid (joinFields hi mid lo) = mid :=
  (joinFields_eq_iff.1 rfl).2.1

@[simp] theorem fieldLo_joinFields (hi : BitVec 2) (mid lo : BitVec 3) : fieldLo (joinFields hi mid lo) = lo :=
  (joinFields_eq_iff.1 rfl).2.2

theorem extReg_eq_iff {hi : Bool} {lo : BitVec 3} {r : BitVec 4} :
    extReg hi lo = r ↔ highReg r = hi ∧ lowReg r = lo := by
  revert hi lo r
  decide

theorem elemOfOp_eq_some_iff {op : Byte} {el : Elem} : elemOfOp op = some el ↔ op = el.toOp := by
  revert op
  cases el <;> decide

@[simp] theorem map_eq_ok_iff {ε α β : Type} {f : α → β} {r : Except ε α} {y : β} :
    r.map f = .ok y ↔ ∃ x, r = .ok x ∧ f x = y := by
  refine ⟨exists_of_map_eq_ok, ?_⟩
  rintro ⟨x, rfl, rfl⟩
  rfl

/-! ### Displacements -/

theorem append_eq_iff {m n : Nat} {a : BitVec m} {b : BitVec n} {v : BitVec (m + n)} :
    a ++ b = v ↔ b = v.extractLsb' 0 n ∧ a = v.extractLsb' n m := by
  constructor
  · rintro rfl
    exact ⟨BitVec.extractLsb'_append_eq_right.symm, BitVec.extractLsb'_append_eq_left.symm⟩
  · rintro ⟨rfl, rfl⟩
    exact BitVec.extractLsb'_append_extractLsb'

theorem extractLsb'_extractLsb' {w n k : Nat} (v : BitVec w) (i j : Nat) (h : j + k ≤ n) :
    (v.extractLsb' i n).extractLsb' j k = v.extractLsb' (i + j) k := by
  refine BitVec.eq_of_getLsbD_eq fun l hl => ?_
  simp [hl, show j + l < n by omega, Nat.add_assoc]

theorem append_eq_bytes16_iff {b0 b1 : Byte} {v : BitVec 16} : b1 ++ b0 = v ↔ [b0, b1] = bytes16 v := by
  simp only [bytes16, List.cons.injEq, and_true]
  exact append_eq_iff

theorem append_eq_bytes32_iff {b0 b1 b2 b3 : Byte} {v : BitVec 32} :
    b3 ++ b2 ++ b1 ++ b0 = v ↔ [b0, b1, b2, b3] = bytes32 v := by
  have hsplit : b3 ++ b2 ++ b1 ++ b0 = v ↔ b0 = _ ∧ b1 = _ ∧ b2 = _ ∧ b3 = _ :=
    append_eq_iff.trans (and_congr_right' (append_eq_iff.trans (and_congr_right' append_eq_iff)))
  simpa [bytes32, extractLsb'_extractLsb'] using hsplit

@[simp] theorem take8_ok_iff {bs rest : List Byte} {v : BitVec 8} : take8 bs = .ok (v, rest) ↔ bs = v :: rest := by
  cases bs <;> simp [take8]

@[simp] theorem take16_ok_iff {bs rest : List Byte} {v : BitVec 16} :
    take16 bs = .ok (v, rest) ↔ bs = bytes16 v ++ rest := by
  match bs with
  | [] | [_] => simp [take16, bytes16]
  | b0 :: b1 :: bs =>
    have hbytes := append_eq_bytes16_iff (b0 := b0) (b1 := b1) (v := v)
    simp_all [take16, bytes16, and_assoc]

@[simp] theorem take32_ok_iff {bs rest : List Byte} {v : BitVec 32} :
    take32 bs = .ok (v, rest) ↔ bs = bytes32 v ++ rest := by
  match bs with
  | [] | [_] | [_, _] | [_, _, _] => simp [take32, bytes32]
  | b0 :: b1 :: b2 :: b3 :: bs =>
    have hbytes := append_eq_bytes32_iff (b0 := b0) (b1 := b1) (b2 := b2) (b3 := b3) (v := v)
    simp_all [take32, bytes32, and_assoc]

theorem mod_cases {mod : BitVec 2} (h : mod ≠ 3#2) : mod = 0#2 ∨ mod = 1#2 ∨ mod = 2#2 := by
  revert mod
  decide

theorem takeDisp32_ok_iff {mod : BitVec 2} (hmod : mod ≠ 3#2) {bs rest : List Byte} {d : Disp} :
    takeDisp32 mod bs = .ok (d, rest) ↔ dispOk32 d = true ∧ d.mod = mod ∧ bs = d.bytes ++ rest := by
  cases d with
  | absent | d8 v | d16 v | d32 v =>
    rcases mod_cases hmod with rfl | rfl | rfl <;> simp [takeDisp32, dispOk32, Disp.mod, Disp.bytes]

theorem takeDisp16_ok_iff {mod : BitVec 2} (hmod : mod ≠ 3#2) {bs rest : List Byte} {d : Disp} :
    takeDisp16 mod bs = .ok (d, rest) ↔ dispOk16 d = true ∧ d.mod = mod ∧ bs = d.bytes ++ rest := by
  cases d with
  | absent | d8 v | d16 v | d32 v =>
    rcases mod_cases hmod with rfl | rfl | rfl <;> simp [takeDisp16, dispOk16, Disp.mod, Disp.bytes]

/-! ### Address forms -/

theorem Disp.mod_eq_zero_iff {d : Disp} : d.mod = 0#2 ↔ d = .absent := by
  cases d <;> simp [Disp.mod]

/-- mod 11B names a register, so it is the mod of no memory operand (30_encoding.md R86). -/
theorem AddrForm.mod_ne_three (f : AddrForm) : f.mod ≠ 3#2 := by
  have hdisp : ∀ d : Disp, d.mod ≠ 3#2 := fun d => by cases d <;> simp [Disp.mod]
  cases f with
  | base _ d | sib _ _ _ d | regs16 _ d => exact hdisp d
  | sibNoBase _ _ _ | abs32 _ | ripRel _ | abs16 _ => simp [AddrForm.mod]

theorem takeForm16_ok_iff {m : CodeMode} {x b : Bool} {mod : BitVec 2} (hmod : mod ≠ 3#2) {rm : BitVec 3}
    {bs rest : List Byte} {f : AddrForm} :
    takeForm16 mod rm bs = .ok (f, rest) ↔
      formOk m .a16 x b f = true ∧ f.mod = mod ∧ f.rm = rm ∧ bs = f.bytes ++ rest := by
  unfold takeForm16
  split_ifs with habs
  · -- the displacement alone: `formOk` keeps BP without a displacement out
    obtain ⟨rfl, rfl⟩ := habs
    cases f with
    | abs16 v => simp [formOk, AddrForm.mod, AddrForm.rm, AddrForm.bytes]
    | regs16 rm d =>
      simp only [formOk, AddrForm.mod, AddrForm.rm, Disp.mod_eq_zero_iff, map_eq_ok_iff]
      grind
    | base _ _ | sib _ _ _ _ | sibNoBase _ _ _ | abs32 _ | ripRel _ => simp [formOk]
  · cases f with
    | abs16 v =>
      simp only [AddrForm.mod, AddrForm.rm, map_eq_ok_iff]
      grind
    | regs16 rm d =>
      simp only [formOk, AddrForm.mod, AddrForm.rm, AddrForm.bytes, map_eq_ok_iff, takeDisp16_ok_iff hmod, Prod.exists]
      grind [Disp.mod_eq_zero_iff]
    | base _ _ | sib _ _ _ _ | sibNoBase _ _ _ | abs32 _ | ripRel _ => simp [formOk]

theorem takeSib_ok_iff {m : CodeMode} {asz : AddrSize} (hasz : asz ≠ .a16) {x b : Bool} {mod : BitVec 2}
    (hmod : mod ≠ 3#2) {bs rest : List Byte} {f : AddrForm} :
    takeSib x b mod bs = .ok (f, rest) ↔
      formOk m asz x b f = true ∧ f.mod = mod ∧ f.rm = 4#3 ∧ bs = f.bytes ++ rest := by
  cases bs with
  | nil =>
    cases f with
    | base r d =>
      simp only [takeSib, formOk, AddrForm.rm]
      grind
    | sib _ _ _ _ | sibNoBase _ _ _ => simp [takeSib, AddrForm.bytes]
    | abs32 _ | ripRel _ | regs16 _ _ | abs16 _ => simp [takeSib, AddrForm.rm, formOk, hasz]
  | cons sib bs =>
    unfold takeSib
    dsimp only
    split_ifs with hnobase
    · -- no base: `formOk` keeps a base field 101B without a displacement out
      obtain ⟨rfl, hlo⟩ := hnobase
      cases f with
      | sibNoBase i sc v =>
        simp only [formOk, AddrForm.mod, AddrForm.rm, AddrForm.bytes, map_eq_ok_iff, take32_ok_iff, Prod.exists]
        grind [joinFields_eq_iff, extReg_eq_iff]
      | sib r i sc d =>
        simp only [formOk, AddrForm.mod, AddrForm.bytes, Disp.mod_eq_zero_iff, map_eq_ok_iff, List.cons_append, List.cons.injEq,
          joinFields_eq_iff]
        grind
      | base r d =>
        simp only [formOk, AddrForm.rm, map_eq_ok_iff]
        grind
      | abs32 _ | ripRel _ | regs16 _ _ | abs16 _ => simp [formOk, AddrForm.rm, hasz]
    · cases f with
      | sibNoBase i sc v =>
        simp only [AddrForm.mod, AddrForm.bytes, map_eq_ok_iff, List.cons_append, List.cons.injEq, joinFields_eq_iff]
        grind
      | sib r i sc d =>
        simp only [formOk, AddrForm.mod, AddrForm.rm, AddrForm.bytes, map_eq_ok_iff, takeDisp32_ok_iff hmod, Prod.exists]
        grind [joinFields_eq_iff, extReg_eq_iff, Disp.mod_eq_zero_iff]
      | base r d =>
        simp only [formOk, AddrForm.rm, map_eq_ok_iff]
        grind
      | abs32 _ | ripRel _ | regs16 _ _ | abs16 _ => simp [formOk, AddrForm.rm, hasz]

theorem takeForm32_ok_iff {m : CodeMode} {asz : AddrSize} (hasz : asz ≠ .a16) {x b : Bool} {mod : BitVec 2}
    (hmod : mod ≠ 3#2) {rm : BitVec 3} {bs rest : List Byte} {f : AddrForm} :
    takeForm32 m x b mod rm bs = .ok (f, rest) ↔
      formOk m asz x b f = true ∧ f.mod = mod ∧ f.rm = rm ∧ bs = f.bytes ++ rest := by
  unfold takeForm32
  split_ifs with hsib habs hm
  · rw [takeSib_ok_iff hasz hmod, hsib]
  · -- relative to the next instruction
    obtain ⟨rfl, rfl⟩ := habs
    cases f with
    | ripRel v => simp [formOk, hasz, hm, AddrForm.mod, AddrForm.rm, AddrForm.bytes]
    | base r d =>
      simp only [formOk, AddrForm.mod, AddrForm.rm, Disp.mod_eq_zero_iff, map_eq_ok_iff]
      grind
    | sib _ _ _ _ | sibNoBase _ _ _ => simp [AddrForm.rm]
    | abs32 _ | regs16 _ _ | abs16 _ => simp [formOk, hasz, hm]
  · -- the displacement alone
    obtain ⟨rfl, rfl⟩ := habs
    cases f with
    | abs32 v => simp [formOk, hasz, hm, AddrForm.mod, AddrForm.rm, AddrForm.bytes]
    | base r d =>
      simp only [formOk, AddrForm.mod, AddrForm.rm, Disp.mod_eq_zero_iff, map_eq_ok_iff]
      grind
    | sib _ _ _ _ | sibNoBase _ _ _ => simp [AddrForm.rm]
    | ripRel _ | regs16 _ _ | abs16 _ => simp [formOk, hasz, hm]
  · -- a base register
    cases f with
    | base r d =>
      simp only [formOk, AddrForm.mod, AddrForm.rm, AddrForm.bytes, map_eq_ok_iff, takeDisp32_ok_iff hmod, Prod.exists]
      grind [extReg_eq_iff, Disp.mod_eq_zero_iff]
    | sib _ _ _ _ | sibNoBase _ _ _ | abs32 _ | ripRel _ =>
      simp only [AddrForm.mod, AddrForm.rm, map_eq_ok_iff]
      grind
    | regs16 _ _ | abs16 _ => simp [formOk, hasz]

/-! ### The r/m operand -/

theorem takeMem_ok_iff {m : CodeMode} {ps : List Pfx} {x b : Bool} {mod : BitVec 2} (hmod : mod ≠ 3#2) {rm : BitVec 3}
    {bs rest : List Byte} {o : MemOp} :
    takeMem m ps x b mod rm bs = .ok (o, rest) ↔
      memOk m ps x b o = true ∧ o.form.mod = mod ∧ o.form.rm = rm ∧ bs = o.form.bytes ++ rest := by
  obtain ⟨g, asz, f⟩ := o
  have hform : (if addrSizeOf m ps = .a16 then takeForm16 mod rm bs else takeForm32 m x b mod rm bs) = .ok (f, rest) ↔
      formOk m (addrSizeOf m ps) x b f = true ∧ f.mod = mod ∧ f.rm = rm ∧ bs = f.bytes ++ rest := by
    split_ifs with hasz
    · rw [hasz, takeForm16_ok_iff hmod]
    · exact takeForm32_ok_iff hasz hmod
  simp only [takeMem, memOk, map_eq_ok_iff, Prod.exists]
  grind

/-- An r/m operand that the decoder can answer: a register that `reg` admits, or memory (30_encoding.md R86). -/
def rmOk {k : Nat} (m : CodeMode) (ps : List Pfx) (x b : Bool) (reg : BitVec k → Bool) : RM k → Bool
  | .reg r => reg r
  | .mem o => memOk m ps x b o

theorem takeRM_ok_iff {k : Nat} {m : CodeMode} {ps : List Pfx} {x b : Bool} {mkReg : BitVec 3 → BitVec k}
    {reg : BitVec k → Bool} {low : BitVec k → BitVec 3} (hreg : ∀ lo r, mkReg lo = r ↔ reg r = true ∧ low r = lo)
    {modrm : Byte} {bs rest : List Byte} {src : RM k} :
    takeRM m ps x b mkReg modrm bs = .ok (src, rest) ↔
      rmOk m ps x b reg src = true ∧ modrm :: bs = encodeRM low (fieldMid modrm) src ++ rest := by
  unfold takeRM
  split_ifs with hmod
  · cases src with
    | reg r =>
      simp only [rmOk, encodeRM, List.cons_append, List.nil_append, List.cons.injEq, joinFields_eq_iff, hmod,
        Except.ok.injEq, Prod.mk.injEq, RM.reg.injEq, hreg]
      grind
    | mem o =>
      have hne : ¬ 3#2 = o.form.mod := o.form.mod_ne_three.symm
      simp [encodeRM, joinFields_eq_iff, hmod, hne]
  · cases src with
    | reg r => simp [encodeRM, joinFields_eq_iff, hmod]
    | mem o =>
      have hmem : (takeMem m ps x b (fieldHi modrm) (fieldLo modrm) bs).map (fun r => (RM.mem (k := k) r.1, r.2)) =
          .ok (.mem o, rest) ↔ takeMem m ps x b (fieldHi modrm) (fieldLo modrm) bs = .ok (o, rest) := by
        simp [map_eq_ok_iff]
      simp only [hmem, takeMem_ok_iff hmod, rmOk, encodeRM, List.cons_append, List.cons.injEq, joinFields_eq_iff]
      grind

theorem takeRM_mm_ok_iff {m : CodeMode} {ps : List Pfx} {x b : Bool} {modrm : Byte} {bs rest : List Byte} {src : RM 3} :
    takeRM m ps x b (fun r => r) modrm bs = .ok (src, rest) ↔
      rmOkMm m ps x b src = true ∧ modrm :: bs = encodeRM (fun k => k) (fieldMid modrm) src ++ rest := by
  have hrm : rmOkMm m ps x b src = rmOk m ps x b (fun _ => true) src := by cases src <;> rfl
  rw [hrm]
  exact takeRM_ok_iff fun lo r => by simp [eq_comm]

theorem takeRM_vec_ok_iff {m : CodeMode} {ps : List Pfx} {x b : Bool} {modrm : Byte} {bs rest : List Byte} {src : RM 4} :
    takeRM m ps x b (extReg b) modrm bs = .ok (src, rest) ↔
      rmOkVec m ps x b src = true ∧ modrm :: bs = encodeRM lowReg (fieldMid modrm) src ++ rest := by
  have hrm : rmOkVec m ps x b src = rmOk m ps x b (fun r => highReg r == b) src := by cases src <;> rfl
  rw [hrm]
  exact takeRM_ok_iff fun lo r => by simp [extReg_eq_iff]

/-! ### ModRM and what follows it -/

@[simp] theorem encodeRM_ne_nil {k : Nat} (low : BitVec k → BitVec 3) (reg : BitVec 3) (src : RM k) :
    encodeRM low reg src ≠ [] := by
  cases src <;> exact nofun

theorem fieldMid_of_encodeRM {k : Nat} {low : BitVec k → BitVec 3} {reg : BitVec 3} {src : RM k} {modrm : Byte}
    {bs rest : List Byte} (h : modrm :: bs = encodeRM low reg src ++ rest) : fieldMid modrm = reg := by
  cases src <;> exact (joinFields_eq_iff.1 (List.cons.inj h).1).2.1

theorem takeMmxOperands_ok_iff {m : CodeMode} {e : LegacyEnc} {el : Elem} {bs rest : List Byte} {i : Instr} :
    takeMmxOperands m e el bs = .ok (i, rest) ↔
      ∃ dst src, rmOkMm m e.pfx e.x e.b src = true ∧ mmxInstr e dst src el = some i ∧
        bs = encodeRM (fun k => k) dst src ++ rest := by
  cases bs with
  | nil => simp [takeMmxOperands]
  | cons modrm bs =>
    unfold takeMmxOperands
    dsimp only
    constructor
    · intro h
      split at h
      · cases h
      · next src rest' hrm =>
        obtain ⟨hok, hbytes⟩ := takeRM_mm_ok_iff.1 hrm
        split at h
        · next i' hi =>
          cases h
          exact ⟨_, src, hok, hi, hbytes⟩
        · cases h
    · rintro ⟨dst, src, hok, hi, hbytes⟩
      obtain rfl := fieldMid_of_encodeRM hbytes
      rw [takeRM_mm_ok_iff.2 ⟨hok, hbytes⟩]
      dsimp only
      rw [hi]

/-- A register field and an r/m operand of XMM or YMM registers, from which `mk` makes the instruction (30_encoding.md R92,
R99). -/
theorem takeRM_vec_map_ok_iff {m : CodeMode} {ps : List Pfx} {x b hi : Bool} {mk : VecReg → RM 4 → Instr} {modrm : Byte}
    {bs rest : List Byte} {i : Instr} :
    (takeRM m ps x b (extReg b) modrm bs).map (fun r => (mk (extReg hi (fieldMid modrm)) r.1, r.2)) = .ok (i, rest) ↔
      ∃ dst src, highReg dst = hi ∧ rmOkVec m ps x b src = true ∧ mk dst src = i ∧
        modrm :: bs = encodeRM lowReg (lowReg dst) src ++ rest := by
  rw [map_eq_ok_iff]
  constructor
  · rintro ⟨⟨src, rest'⟩, hrm, hi⟩
    cases hi
    obtain ⟨hok, hbytes⟩ := takeRM_vec_ok_iff.1 hrm
    exact ⟨extReg hi (fieldMid modrm), src, by simp, hok, rfl, by simpa using hbytes⟩
  · rintro ⟨dst, src, hhigh, hok, rfl, hbytes⟩
    have hmid : fieldMid modrm = lowReg dst := fieldMid_of_encodeRM hbytes
    refine ⟨(src, rest), takeRM_vec_ok_iff.2 ⟨hok, hmid ▸ hbytes⟩, ?_⟩
    rw [extReg_eq_iff.2 ⟨hhigh, hmid.symm⟩]

theorem takeSseOperands_ok_iff {m : CodeMode} {e : LegacyEnc} {el : Elem} {bs rest : List Byte} {i : Instr} :
    takeSseOperands m e el bs = .ok (i, rest) ↔
      ∃ dst src, highReg dst = e.r ∧ rmOkVec m e.pfx e.x e.b src = true ∧ sseInstr e dst src el = i ∧
        bs = encodeRM lowReg (lowReg dst) src ++ rest := by
  cases bs with
  | nil => simp [takeSseOperands]
  | cons modrm bs => exact takeRM_vec_map_ok_iff (mk := fun d r => sseInstr e d r el)

theorem takeVexOperands_ok_iff {m : CodeMode} {e : VexEnc} {src1 : VecReg} {l : Bool} {el : Elem} {bs rest : List Byte}
    {i : Instr} :
    takeVexOperands m e src1 l el bs = .ok (i, rest) ↔
      ∃ dst src2, highReg dst = e.vex.r ∧ rmOkVec m e.pfx e.vex.x e.vex.b src2 = true ∧
        vexInstr e dst src1 src2 l el = i ∧ bs = encodeRM lowReg (lowReg dst) src2 ++ rest := by
  cases bs with
  | nil => simp [takeVexOperands]
  | cons modrm bs => exact takeRM_vec_map_ok_iff (mk := fun d r => vexInstr e d src1 r l el)

end Sys2Proof
end

section
/-! PROOFS. PrefixRuns: the groups of prefixes, which say what clashes and how long a run can be, the run that the decoder reads,
and what setting its last REX byte apart does to it. -/

namespace Sys2Proof

/-! ### Groups -/

/-- The groups of the prefixes, of which one each may stand before an instruction (30_encoding.md R91; log 21). -/
def Pfx.group : Pfx → Nat
  | .opSize => 0
  | .addrSize => 1
  | .seg _ => 2
  | .rex _ => 3
  | .lock => 4
  | .repne => 5
  | .rep => 6

theorem clashes_iff (p q : Pfx) : p.clashes q = true ↔ p.group = q.group := by
  cases p <;> cases q <;> simp [Pfx.clashes, Pfx.group]

theorem isRex_iff_group (p : Pfx) : p.isRex = true ↔ p.group = 3 := by
  cases p <;> simp [Pfx.isRex, Pfx.group]

/-- Nothing is repeated in a run exactly where its groups are distinct. -/
theorem repeated_eq_false_iff (ps : List Pfx) : repeated ps = false ↔ (ps.map Pfx.group).Nodup := by
  induction ps with
  | nil => simp [repeated]
  | cons p ps ih =>
    simp only [repeated, Bool.or_eq_false_iff, ih, List.map_cons, List.nodup_cons, List.any_eq_false, clashes_iff,
      List.mem_map]
    grind

/-- A run of prefixes of given groups, none twice, is no longer than the groups are many. -/
theorem length_le_of_groups {ps : List Pfx} {gs : List Nat} (hrep : repeated ps = false)
    (hgs : ∀ p ∈ ps, p.group ∈ gs) : ps.length ≤ gs.length := by
  rw [← List.length_map Pfx.group]
  refine (List.subperm_of_subset ((repeated_eq_false_iff ps).1 hrep) fun g hg => ?_).length_le
  obtain ⟨p, hp, rfl⟩ := List.mem_map.1 hg
  exact hgs p hp

/-! ### The run that the decoder reads -/

theorem toByte_of_pfxOfByte {b : Byte} {p : Pfx} (h : pfxOfByte b = some p) : p.toByte = b := by
  have hall : ∀ c : Byte, (pfxOfByte c).all (fun q => q.toByte == c) = true := by decide
  simpa [h] using hall b

theorem toByte_rexOfByte {b : Byte} (h : isRexByte b = true) : (rexOfByte b).toByte = b := by
  revert b
  decide

theorem toByte_of_prefixOf {m : CodeMode} {b : Byte} {p : Pfx} (h : prefixOf m b = some p) : p.toByte = b := by
  unfold prefixOf at h
  split_ifs at h with hrex
  · cases h
    exact toByte_rexOfByte hrex.2
  · exact toByte_of_pfxOfByte h

/-- The decoder reads a run off the head of the bytes and leaves none of them out (30_encoding.md R102). -/
theorem takePrefixes_bytes (m : CodeMode) (bs : List Byte) :
    bs = (takePrefixes m bs).1.map Pfx.toByte ++ (takePrefixes m bs).2 := by
  induction bs with
  | nil => rfl
  | cons b bs ih =>
    unfold takePrefixes
    split
    · next p hp => rw [List.map_cons, List.cons_append, ← ih, toByte_of_prefixOf hp]
    · rfl

theorem rexAllowed_takePrefixes (m : CodeMode) (bs : List Byte) :
    m = .m64 ∨ (takePrefixes m bs).1.any Pfx.isRex = false := by
  by_cases hm : m = .m64
  · exact .inl hm
  · refine .inr (List.any_eq_false.2 fun p hp => ?_)
    simp [isRex_takePrefixes hm bs p hp]

/-- Bytes written for a run of prefixes are read as that run. -/
theorem takePrefixes_append {m : CodeMode} {run : List Pfx} (hrun : m = .m64 ∨ run.any Pfx.isRex = false) (bs : List Byte) :
    takePrefixes m (run.map Pfx.toByte ++ bs) = (run ++ (takePrefixes m bs).1, (takePrefixes m bs).2) := by
  induction run with
  | nil => rfl
  | cons p run ih =>
    simp only [List.any_cons, Bool.or_eq_false_iff] at hrun
    rw [List.map_cons, List.cons_append, takePrefixes, prefixOf_toByte (hrun.imp_right And.left)]
    simp [ih (hrun.imp_right And.right)]

/-! ### The last REX byte -/

theorem isRex_of_any {ps : List Pfx} (h : ps.any Pfx.isRex = false) : ∀ p ∈ ps, p.isRex = false :=
  fun p hp => by simpa using List.any_eq_false.1 h p hp

theorem splitRex_append_rex (ps : List Pfx) (r : Rex) : splitRex (ps ++ [.rex r]) = (ps, some r) := by
  induction ps with
  | nil => rfl
  | cons p ps ih =>
    rw [List.cons_append, splitRex.eq_3 p _ fun r _ h => by simp at h, ih]

theorem splitRex_eq_self {ps : List Pfx} (h : (splitRex ps).2 = none) : splitRex ps = (ps, none) := by
  induction ps using splitRex.induct with
  | case1 => rfl
  | case2 r => cases h
  | case3 p ps hne ih =>
    rw [splitRex.eq_3 p ps hne] at h ⊢
    rw [ih h]

theorem splitRex_eq_self_iff (ps : List Pfx) : splitRex ps = (ps, none) ↔ (splitRex ps).2 = none :=
  ⟨fun h => by rw [h], splitRex_eq_self⟩

theorem splitRex_join (run : List Pfx) :
    (splitRex run).1 ++ ((splitRex run).2.map Pfx.rex).toList = run := by
  induction run using splitRex.induct with
  | case1 => rfl
  | case2 r => rfl
  | case3 p ps hne ih => rw [splitRex.eq_3 p ps hne, List.cons_append, ih]

/-- What the decoder reads off prefixes and a REX byte written before an opcode, the last REX byte set apart
(30_encoding.md R92). -/
def readEnc (ps : List Pfx) (rx : Option Rex) : LegacyEnc :=
  ⟨(splitRex (ps ++ (rx.map Pfx.rex).toList)).1, (splitRex (ps ++ (rx.map Pfx.rex).toList)).2⟩

theorem readEnc_eq {ps : List Pfx} {rx : Option Rex} {e : LegacyEnc}
    (h : splitRex (ps ++ (rx.map Pfx.rex).toList) = (e.pfx, e.rex)) : readEnc ps rx = e := by
  rw [readEnc, h]

theorem readEnc_none {ps : List Pfx} (h : (splitRex ps).2 = none) : readEnc ps none = ⟨ps, none⟩ :=
  readEnc_eq (by simpa using splitRex_eq_self h)

theorem readEnc_join (ps : List Pfx) (rx : Option Rex) :
    (readEnc ps rx).pfx ++ ((readEnc ps rx).rex.map Pfx.rex).toList = ps ++ (rx.map Pfx.rex).toList :=
  splitRex_join _

/-- Setting the last REX byte apart keeps every other byte among the prefixes. -/
theorem mem_readEnc {p : Pfx} (hp : p.isRex = false) (ps : List Pfx) (rx : Option Rex) :
    p ∈ (readEnc ps rx).pfx ↔ p ∈ ps := by
  rw [readEnc, mem_splitRex_fst hp]
  cases rx with
  | none => simp
  | some r => simp [ne_rex_of_isRex hp r]

theorem repeated_append_rex_iff (ps : List Pfx) (r : Rex) :
    repeated (ps ++ [.rex r]) = false ↔ repeated ps = false ∧ ps.any Pfx.isRex = false := by
  simp only [repeated_eq_false_iff, List.map_append, List.nodup_append, List.any_eq_false, isRex_iff_group]
  simp [Pfx.group]

/-- Prefixes and a REX byte are admitted by a mode exactly where they are a run that the decoder can read there and part again
(30_encoding.md R91, R92; log 21). -/
theorem rexOk_iff (m : CodeMode) (ps : List Pfx) (rx : Option Rex) :
    rexOk m ⟨ps, rx⟩ = true ∧ repeated ps = false ↔
      Machine.PrefixRun m ps rx ∧ splitRex (ps ++ (rx.map Pfx.rex).toList) = (ps, rx) := by
  cases rx with
  | none =>
    simp [rexOk, Machine.PrefixRun, splitRex_eq_self_iff]
    grind
  | some r =>
    have hlast : ps.any Pfx.isRex = false → (splitRex ps).2 = none := fun h =>
      splitRex_snd_eq_none (isRex_of_any h)
    simp [rexOk, Machine.PrefixRun, splitRex_append_rex, repeated_append_rex_iff]
    grind

end Sys2Proof
end

section
/-! PROOFS. RoundTrip: the decoder answers an instruction exactly where its encoding stands, and from this the settling of O10 and
O11. -/

namespace Sys2Proof

/-! ### The VEX bytes -/

theorem vexLast_eq_iff {top v3 l : Bool} {v : BitVec 3} {b : Byte} :
    b = vexLast top v3 v l ↔
      b.getLsbD 7 = top ∧ (!b.getLsbD 6) = v3 ∧ vexV b = v ∧ vexL b = l ∧ vexPp b = 1#2 := by
  constructor
  · rintro rfl
    revert top v3 v l
    decide
  · rintro ⟨rfl, rfl, rfl, rfl, hpp⟩
    revert b
    decide

/-- The byte after C4 that spells R, X and B and mmmmm = 00001B (30_encoding.md R95, R97). -/
theorem vexMid_eq_iff {r x b : Bool} {c : Byte} :
    c = BitVec.ofBool (!r) ++ BitVec.ofBool (!x) ++ BitVec.ofBool (!b) ++ 1#5 ↔
      (!c.getLsbD 7) = r ∧ (!c.getLsbD 6) = x ∧ (!c.getLsbD 5) = b ∧ c.extractLsb' 0 5 = 1#5 := by
  constructor
  · rintro rfl
    revert r x b
    decide
  · rintro ⟨rfl, rfl, rfl, hmap⟩
    revert c
    decide

theorem fieldHi_eq_three_iff {b : Byte} : fieldHi b = 3#2 ↔ b.getLsbD 7 = true ∧ b.getLsbD 6 = true := by
  revert b
  decide

/-- The two VEX bytes are read as they are written (30_encoding.md R96). -/
theorem bytes_eq_two_iff {v : VexPrefix} {src1 : VecReg} {l : Bool} {b1 : Byte} :
    v.bytes src1 l = [0xC5#8, b1] ↔ v = vexTwo b1 ∧ lowReg src1 = vexV b1 ∧ vexL b1 = l ∧ vexPp b1 = 1#2 := by
  cases v with
  | two r v3 =>
    simp only [VexPrefix.bytes, List.cons.injEq, true_and, and_true, vexTwo, VexPrefix.two.injEq]
    grind [vexLast_eq_iff]
  | three w r x b v3 => simp [VexPrefix.bytes, vexTwo]

/-- The three VEX bytes are read as they are written (30_encoding.md R95). -/
theorem bytes_eq_three_iff {v : VexPrefix} {src1 : VecReg} {l : Bool} {b1 b2 : Byte} :
    v.bytes src1 l = [0xC4#8, b1, b2] ↔
      v = vexThree b1 b2 ∧ b1.extractLsb' 0 5 = 1#5 ∧ lowReg src1 = vexV b2 ∧ vexL b2 = l ∧ vexPp b2 = 1#2 := by
  cases v with
  | two r v3 => simp [VexPrefix.bytes, vexThree]
  | three w r x b v3 =>
    simp only [VexPrefix.bytes, List.cons.injEq, true_and, and_true, vexThree, VexPrefix.three.injEq]
    grind [vexLast_eq_iff, vexMid_eq_iff]

theorem vexOk_vexTwo (m : CodeMode) (b1 : Byte) : vexOk m (vexTwo b1) = true ↔ m = .m64 ∨ fieldHi b1 = 3#2 := by
  rw [fieldHi_eq_three_iff]
  simp [vexOk, vexTwo, VexPrefix.r, VexPrefix.x, VexPrefix.b]

theorem vexOk_vexThree (m : CodeMode) (b1 b2 : Byte) :
    vexOk m (vexThree b1 b2) = true ↔
      (m = .m64 ∨ fieldHi b1 = 3#2) ∧ (m = .m64 ∨ (vexThree b1 b2).b = false) := by
  rw [fieldHi_eq_three_iff]
  simp [vexOk, vexThree, VexPrefix.r, VexPrefix.x, VexPrefix.b]
  tauto

/-! ### Well-formedness, check by check -/

theorem legacyPfxOk_iff {need66 : Bool} {ps : List Pfx} :
    legacyPfxOk need66 ps = true ↔
      repeated ps = false ∧ Pfx.repne ∉ ps ∧ Pfx.rep ∉ ps ∧ Pfx.lock ∉ ps ∧
        (Pfx.opSize ∈ ps ↔ need66 = true) := by
  have h66 : (decide (Pfx.opSize ∈ ps) == need66) = true ↔ (Pfx.opSize ∈ ps ↔ need66 = true) := by
    rw [beq_iff_eq, Bool.eq_iff_iff, decide_eq_true_eq]
  simp only [legacyPfxOk, Bool.and_eq_true, Bool.not_eq_true', h66, List.contains_eq_mem, decide_eq_false_iff_not]
  tauto

theorem vexPfxOk_iff {ps : List Pfx} :
    vexPfxOk ps = true ↔
      repeated ps = false ∧ Pfx.repne ∉ ps ∧ Pfx.rep ∉ ps ∧ Pfx.lock ∉ ps ∧ Pfx.opSize ∉ ps ∧
        ps.any Pfx.isRex = false := by
  simp only [vexPfxOk, Bool.and_eq_true, legacyPfxOk_iff, Bool.not_eq_true', Bool.false_eq_true, iff_false, and_assoc]

theorem wfMmx_iff {m : CodeMode} {e : LegacyEnc} {src : RM 3} :
    wfMmx m e src = true ↔
      rexOk m e = true ∧ repeated e.pfx = false ∧ Pfx.repne ∉ e.pfx ∧ Pfx.rep ∉ e.pfx ∧ Pfx.lock ∉ e.pfx ∧
        Pfx.opSize ∉ e.pfx ∧ rmOkMm m e.pfx e.x e.b src = true := by
  simp only [wfMmx, Bool.and_eq_true, legacyPfxOk_iff, Bool.false_eq_true, iff_false]
  tauto

theorem wfSse_iff {m : CodeMode} {e : LegacyEnc} {dst : VecReg} {src : RM 4} :
    wfSse m e dst src = true ↔
      rexOk m e = true ∧ repeated e.pfx = false ∧ Pfx.repne ∉ e.pfx ∧ Pfx.rep ∉ e.pfx ∧ Pfx.lock ∉ e.pfx ∧
        Pfx.opSize ∈ e.pfx ∧ highReg dst = e.r ∧ rmOkVec m e.pfx e.x e.b src = true := by
  simp only [wfSse, Bool.and_eq_true, legacyPfxOk_iff, iff_true, beq_iff_eq]
  tauto

theorem wfVex_iff {m : CodeMode} {e : VexEnc} {dst src1 : VecReg} {src2 : RM 4} :
    wfVex m e dst src1 src2 = true ↔
      vexPfxOk e.pfx = true ∧ vexOk m e.vex = true ∧ highReg dst = e.vex.r ∧ src1Ok m e.vex src1 = true ∧
        rmOkVec m e.pfx e.vex.x e.vex.b src2 = true := by
  simp only [wfVex, Bool.and_eq_true, beq_iff_eq, and_assoc]

theorem badBeforeVex_eq_false_iff {ps : List Pfx} (hrep : repeated ps = false) (rx : Option Rex) :
    badBeforeVex ps rx = false ↔ rx = none ∧ vexPfxOk ps = true := by
  rw [vexPfxOk_iff]
  simp only [badBeforeVex, Bool.or_eq_false_iff, Option.isSome_eq_false_iff, Option.isNone_iff_eq_none, hrep,
    List.contains_eq_mem, decide_eq_false_iff_not]
  tauto

/-! ### The shapes -/

@[simp] theorem elemOfOp_toOp (el : Elem) : elemOfOp el.toOp = some el := elemOfOp_eq_some_iff.2 rfl

@[simp] theorem toOp_inj {a b : Elem} : a.toOp = b.toOp ↔ a = b := by
  refine ⟨fun h => ?_, congrArg _⟩
  simpa using congrArg elemOfOp h

theorem takeMmxOperands_qword {m : CodeMode} {e : LegacyEnc} {bs rest : List Byte} {i : Instr} :
    takeMmxOperands m e .qword bs ≠ .ok (i, rest) := by
  simp [takeMmxOperands_ok_iff, mmxInstr]

theorem decodeLegacy_ok_iff {m : CodeMode} {e : LegacyEnc} {bs rest : List Byte} {i : Instr} :
    decodeLegacy m e bs = .ok (i, rest) ↔
      ∃ el tail, bs = el.toOp :: tail ∧ Pfx.repne ∉ e.pfx ∧ Pfx.rep ∉ e.pfx ∧ Pfx.lock ∉ e.pfx ∧
        ((Pfx.opSize ∈ e.pfx ∧ takeSseOperands m e el tail = .ok (i, rest)) ∨
          (Pfx.opSize ∉ e.pfx ∧ takeMmxOperands m e el tail = .ok (i, rest))) := by
  cases bs with
  | nil => simp [decodeLegacy]
  | cons op bs =>
    cases hop : elemOfOp op with
    | none =>
      have hne : ∀ el : Elem, op ≠ el.toOp := fun el h => by simp [h] at hop
      simp [decodeLegacy, hop, hne]
    | some el =>
      obtain rfl := elemOfOp_eq_some_iff.1 hop
      by_cases hq : el = .qword
      · subst hq
        simp [decodeLegacy, takeMmxOperands_qword, ite_eq_iff]
        grind
      · simp [decodeLegacy, hq, ite_eq_iff]
        grind

theorem decodeVexTail_ok_iff {m : CodeMode} {ps : List Pfx} {v : VexPrefix} {mapOk : Bool} {last : Byte}
    {bs rest : List Byte} {i : Instr} :
    decodeVexTail m ps v mapOk last bs = .ok (i, rest) ↔
      mapOk = true ∧ vexPp last = 1#2 ∧ (m = .m64 ∨ v.b = false) ∧
        ∃ dst src1 src2 el, highReg dst = v.r ∧ src1Ok m v src1 = true ∧ lowReg src1 = vexV last ∧
          rmOkVec m ps v.x v.b src2 = true ∧ vexInstr ⟨ps, v⟩ dst src1 src2 (vexL last) el = i ∧
          bs = el.toOp :: (encodeRM lowReg (lowReg dst) src2 ++ rest) := by
  have hsrc1 : ∀ src1, src1Ok m v src1 = true ∧ lowReg src1 = vexV last ↔
      extReg (m == .m64 && v.v3) (vexV last) = src1 := fun src1 => by simp [src1Ok, extReg_eq_iff]
  cases bs with
  | nil => simp [decodeVexTail]
  | cons op bs =>
    cases hop : elemOfOp op with
    | none =>
      have hne : ∀ el : Elem, op ≠ el.toOp := fun el h => by simp [h] at hop
      simp [decodeVexTail, hop, hne]
    | some el =>
      obtain rfl := elemOfOp_eq_some_iff.1 hop
      simp [decodeVexTail, ite_eq_iff, takeVexOperands_ok_iff]
      grind

theorem cons_eq_bytes_two_iff {v : VexPrefix} {src1 : VecReg} {l : Bool} {b1 : Byte} {bs tail : List Byte} :
    0xC5#8 :: b1 :: bs = v.bytes src1 l ++ tail ↔ v.bytes src1 l = [0xC5#8, b1] ∧ bs = tail := by
  cases v with
  | two r v3 => simp [VexPrefix.bytes, eq_comm]
  | three w r x b v3 => simp [VexPrefix.bytes]

theorem cons_eq_bytes_three_iff {v : VexPrefix} {src1 : VecReg} {l : Bool} {b1 b2 : Byte} {bs tail : List Byte} :
    0xC4#8 :: b1 :: b2 :: bs = v.bytes src1 l ++ tail ↔ v.bytes src1 l = [0xC4#8, b1, b2] ∧ bs = tail := by
  cases v with
  | two r v3 => simp [VexPrefix.bytes]
  | three w r x b v3 => simp [VexPrefix.bytes, eq_comm, and_assoc]

theorem decodeVex_two_eq_ok_iff {m : CodeMode} {ps : List Pfx} {rex : Option Rex} {b1 : Byte} {bs : List Byte}
    {d : Instr × List Byte} :
    decodeVex m ps rex false (b1 :: bs) = .ok d ↔
      (m = .m64 ∨ fieldHi b1 = 3#2) ∧ badBeforeVex ps rex = false ∧ decodeVexTail m ps (vexTwo b1) true b1 bs = .ok d := by
  simp [decodeVex, ite_eq_iff]
  grind

theorem decodeVex_three_eq_ok_iff {m : CodeMode} {ps : List Pfx} {rex : Option Rex} {b1 b2 : Byte} {bs : List Byte}
    {d : Instr × List Byte} :
    decodeVex m ps rex true (b1 :: b2 :: bs) = .ok d ↔
      (m = .m64 ∨ fieldHi b1 = 3#2) ∧ badBeforeVex ps rex = false ∧
        decodeVexTail m ps (vexThree b1 b2) (b1.extractLsb' 0 5 == 1#5) b2 bs = .ok d := by
  simp [decodeVex, ite_eq_iff]
  grind

/-- The VEX shape after C5 (30_encoding.md R96). -/
theorem decodeVex_two_ok_iff {m : CodeMode} {ps : List Pfx} {rex : Option Rex} (hrep : repeated ps = false)
    {bs rest : List Byte} {i : Instr} :
    decodeVex m ps rex false bs = .ok (i, rest) ↔
      rex = none ∧ ∃ v dst src1 src2 l el, wfVex m ⟨ps, v⟩ dst src1 src2 = true ∧
        vexInstr ⟨ps, v⟩ dst src1 src2 l el = i ∧
        0xC5#8 :: bs = v.bytes src1 l ++ (el.toOp :: (encodeRM lowReg (lowReg dst) src2 ++ rest)) := by
  cases bs with
  | nil =>
    have hshort : ∀ (v : VexPrefix) src1 l (tail : List Byte), [0xC5#8] ≠ v.bytes src1 l ++ tail := fun v src1 l tail => by
      cases v <;> simp [VexPrefix.bytes]
    simp [decodeVex, hshort]
  | cons b1 bs =>
    simp only [decodeVex_two_eq_ok_iff, badBeforeVex_eq_false_iff hrep, decodeVexTail_ok_iff, ← vexOk_vexTwo,
      cons_eq_bytes_two_iff, bytes_eq_two_iff, wfVex_iff]
    constructor
    · rintro ⟨hv, ⟨rfl, hpfx⟩, -, hpp, -, dst, src1, src2, el, hdst, hsrc1, hlow, hsrc2, rfl, rfl⟩
      exact ⟨rfl, _, dst, src1, src2, _, el, ⟨hpfx, hv, hdst, hsrc1, hsrc2⟩, rfl, ⟨rfl, hlow, rfl, hpp⟩, rfl⟩
    · rintro ⟨rfl, _, dst, src1, src2, _, el, ⟨hpfx, hv, hdst, hsrc1, hsrc2⟩, rfl, ⟨rfl, hlow, rfl, hpp⟩, rfl⟩
      exact ⟨hv, ⟨rfl, hpfx⟩, trivial, hpp, .inr rfl, dst, src1, src2, el, hdst, hsrc1, hlow, hsrc2, rfl, rfl⟩

/-- The VEX shape after C4 (30_encoding.md R95). -/
theorem decodeVex_three_ok_iff {m : CodeMode} {ps : List Pfx} {rex : Option Rex} (hrep : repeated ps = false)
    {bs rest : List Byte} {i : Instr} :
    decodeVex m ps rex true bs = .ok (i, rest) ↔
      rex = none ∧ ∃ v dst src1 src2 l el, wfVex m ⟨ps, v⟩ dst src1 src2 = true ∧
        vexInstr ⟨ps, v⟩ dst src1 src2 l el = i ∧
        0xC4#8 :: bs = v.bytes src1 l ++ (el.toOp :: (encodeRM lowReg (lowReg dst) src2 ++ rest)) := by
  match bs with
  | [] | [b1] =>
    have hshort : ∀ (v : VexPrefix) src1 l (tail : List Byte),
        [0xC4#8] ≠ v.bytes src1 l ++ tail ∧ ∀ b1, [0xC4#8, b1] ≠ v.bytes src1 l ++ tail := fun v src1 l tail => by
      cases v <;> simp [VexPrefix.bytes]
    simp [decodeVex, hshort, ite_eq_iff]
  | b1 :: b2 :: bs =>
    simp only [decodeVex_three_eq_ok_iff, badBeforeVex_eq_false_iff hrep, decodeVexTail_ok_iff, cons_eq_bytes_three_iff,
      bytes_eq_three_iff, wfVex_iff, beq_iff_eq]
    constructor
    · rintro ⟨hv, ⟨rfl, hpfx⟩, hmap, hpp, hb, dst, src1, src2, el, hdst, hsrc1, hlow, hsrc2, rfl, rfl⟩
      exact ⟨rfl, _, dst, src1, src2, _, el, ⟨hpfx, (vexOk_vexThree ..).2 ⟨hv, hb⟩, hdst, hsrc1, hsrc2⟩, rfl,
        ⟨rfl, hmap, hlow, rfl, hpp⟩, rfl⟩
    · rintro ⟨rfl, _, dst, src1, src2, _, el, ⟨hpfx, hv, hdst, hsrc1, hsrc2⟩, rfl, ⟨rfl, hmap, hlow, rfl, hpp⟩, rfl⟩
      obtain ⟨hhi, hb⟩ := (vexOk_vexThree ..).1 hv
      exact ⟨hhi, ⟨rfl, hpfx⟩, hmap, hpp, hb, dst, src1, src2, el, hdst, hsrc1, hlow, hsrc2, rfl, rfl⟩

/-! ### What the bytes after the prefixes spell -/

/-- After the prefixes `ps` and the REX byte `rx`, the bytes spell an instruction that is well formed with them (30_encoding.md
R81, R82). -/
inductive Spells (m : CodeMode) (ps : List Pfx) (rx : Option Rex) : List Byte → Instr → Prop
  | mmx {el : Elem} {dst : MmReg} {src : RM 3} {i : Instr} (hwf : wfMmx m ⟨ps, rx⟩ src = true)
    (hi : mmxInstr ⟨ps, rx⟩ dst src el = some i) :
    Spells m ps rx (0x0F#8 :: el.toOp :: encodeRM (fun k => k) dst src) i
  | sse {el : Elem} {dst : VecReg} {src : RM 4} (hwf : wfSse m ⟨ps, rx⟩ dst src = true) :
    Spells m ps rx (0x0F#8 :: el.toOp :: encodeRM lowReg (lowReg dst) src) (sseInstr ⟨ps, rx⟩ dst src el)
  | vex {v : VexPrefix} {dst src1 : VecReg} {src2 : RM 4} {l : Bool} {el : Elem} (hrx : rx = none)
    (hwf : wfVex m ⟨ps, v⟩ dst src1 src2 = true) :
    Spells m ps rx (v.bytes src1 l ++ (el.toOp :: encodeRM lowReg (lowReg dst) src2)) (vexInstr ⟨ps, v⟩ dst src1 src2 l el)

theorem decodeOpcode_legacy (m : CodeMode) (ps : List Pfx) (rx : Option Rex) (bs : List Byte) :
    decodeOpcode m ps rx (0x0F#8 :: bs) = decodeLegacy m ⟨ps, rx⟩ bs := rfl

theorem decodeOpcode_two (m : CodeMode) (ps : List Pfx) (rx : Option Rex) (bs : List Byte) :
    decodeOpcode m ps rx (0xC5#8 :: bs) = decodeVex m ps rx false bs := rfl

theorem decodeOpcode_three (m : CodeMode) (ps : List Pfx) (rx : Option Rex) (bs : List Byte) :
    decodeOpcode m ps rx (0xC4#8 :: bs) = decodeVex m ps rx true bs := rfl

theorem decodeOpcode_ok_iff {m : CodeMode} {ps : List Pfx} {rx : Option Rex} (hrex : rexOk m ⟨ps, rx⟩ = true)
    (hrep : repeated ps = false) {bs rest : List Byte} {i : Instr} :
    decodeOpcode m ps rx bs = .ok (i, rest) ↔ ∃ body, Spells m ps rx body i ∧ bs = body ++ rest := by
  constructor
  · intro h
    cases bs with
    | nil => cases h
    | cons b bs =>
      unfold decodeOpcode at h
      dsimp only at h
      split_ifs at h with hlegacy htwo hthree
      · obtain ⟨el, tail, rfl, hne, hp, hl, ⟨h66, hops⟩ | ⟨h66, hops⟩⟩ := decodeLegacy_ok_iff.1 h
        · obtain ⟨dst, src, hdst, hsrc, rfl, rfl⟩ := takeSseOperands_ok_iff.1 hops
          exact ⟨_, .sse (wfSse_iff.2 ⟨hrex, hrep, hne, hp, hl, h66, hdst, hsrc⟩), by rw [hlegacy]; rfl⟩
        · obtain ⟨dst, src, hsrc, hi, rfl⟩ := takeMmxOperands_ok_iff.1 hops
          exact ⟨_, .mmx (wfMmx_iff.2 ⟨hrex, hrep, hne, hp, hl, h66, hsrc⟩) hi, by rw [hlegacy]; rfl⟩
      · obtain ⟨hrx, v, dst, src1, src2, l, el, hwf, rfl, hbytes⟩ := (decodeVex_two_ok_iff hrep).1 h
        exact ⟨_, .vex hrx hwf, by rw [htwo, hbytes]; simp⟩
      · obtain ⟨hrx, v, dst, src1, src2, l, el, hwf, rfl, hbytes⟩ := (decodeVex_three_ok_iff hrep).1 h
        exact ⟨_, .vex hrx hwf, by rw [hthree, hbytes]; simp⟩
  · rintro ⟨body, hspells, rfl⟩
    cases hspells with
    | @mmx el dst src i hwf hi =>
      obtain ⟨-, -, hne, hp, hl, h66, hsrc⟩ := wfMmx_iff.1 hwf
      exact decodeLegacy_ok_iff.2
        ⟨el, _, rfl, hne, hp, hl, .inr ⟨h66, takeMmxOperands_ok_iff.2 ⟨dst, src, hsrc, hi, rfl⟩⟩⟩
    | @sse el dst src hwf =>
      obtain ⟨-, -, hne, hp, hl, h66, hdst, hsrc⟩ := wfSse_iff.1 hwf
      exact decodeLegacy_ok_iff.2
        ⟨el, _, rfl, hne, hp, hl, .inl ⟨h66, takeSseOperands_ok_iff.2 ⟨dst, src, hdst, hsrc, rfl, rfl⟩⟩⟩
    | @vex v dst src1 src2 l el hrx hwf =>
      cases v with
      | two r v3 =>
        simp only [VexPrefix.bytes, List.cons_append, decodeOpcode_two]
        exact (decodeVex_two_ok_iff hrep).2 ⟨hrx, .two r v3, dst, src1, src2, l, el, hwf, rfl, rfl⟩
      | three w r x b v3 =>
        simp only [VexPrefix.bytes, List.cons_append, decodeOpcode_three]
        exact (decodeVex_three_ok_iff hrep).2 ⟨hrx, .three w r x b v3, dst, src1, src2, l, el, hwf, rfl, rfl⟩

/-! ### Instructions and their encodings -/

theorem spells_wf {m : CodeMode} {ps : List Pfx} {rx : Option Rex} {body : List Byte} {i : Instr}
    (h : Spells m ps rx body i) : i.wf m = true := by
  cases h with
  | @mmx el dst src i hwf hi => cases el <;> cases hi <;> exact hwf
  | @sse el dst src hwf => cases el <;> exact hwf
  | @vex v dst src1 src2 l el hrx hwf => cases l <;> cases el <;> exact hwf

theorem spells_encode {m : CodeMode} {ps : List Pfx} {rx : Option Rex} {body : List Byte} {i : Instr}
    (h : Spells m ps rx body i) : encode i = Machine.prefixBytes ps rx ++ body := by
  have hlegacy : ∀ (el : Elem) (tail : List Byte),
      encodeLegacy ⟨ps, rx⟩ el tail = Machine.prefixBytes ps rx ++ (0x0F#8 :: el.toOp :: tail) := fun el tail => by
    simp [encodeLegacy, Machine.prefixBytes]
  cases h with
  | @mmx el dst src i hwf hi => cases el <;> cases hi <;> exact hlegacy _ _
  | @sse el dst src hwf => cases el <;> exact hlegacy _ _
  | @vex v dst src1 src2 l el hrx hwf =>
    subst hrx
    have hvex : encodeVex ⟨ps, v⟩ src1 l el (encodeRM lowReg (lowReg dst) src2) =
        Machine.prefixBytes ps none ++ (v.bytes src1 l ++ (el.toOp :: encodeRM lowReg (lowReg dst) src2)) := by
      simp [encodeVex, Machine.prefixBytes]
    rw [← hvex]
    cases l <;> cases el <;> rfl

theorem exists_spells_of_wf {m : CodeMode} {i : Instr} (h : i.wf m = true) : ∃ ps rx body, Spells m ps rx body i := by
  cases i with
  | punpckhbwMm e d r => exact ⟨_, _, _, .mmx (el := .byte) (dst := d) h rfl⟩
  | punpckhwdMm e d r => exact ⟨_, _, _, .mmx (el := .word) (dst := d) h rfl⟩
  | punpckhdqMm e d r => exact ⟨_, _, _, .mmx (el := .dword) (dst := d) h rfl⟩
  | punpckhbwXmm e d r => exact ⟨_, _, _, .sse (el := .byte) h⟩
  | punpckhwdXmm e d r => exact ⟨_, _, _, .sse (el := .word) h⟩
  | punpckhdqXmm e d r => exact ⟨_, _, _, .sse (el := .dword) h⟩
  | punpckhqdqXmm e d r => exact ⟨_, _, _, .sse (el := .qword) h⟩
  | vpunpckhbwXmm e d a r => exact ⟨_, _, _, .vex (l := false) (el := .byte) rfl h⟩
  | vpunpckhwdXmm e d a r => exact ⟨_, _, _, .vex (l := false) (el := .word) rfl h⟩
  | vpunpckhdqXmm e d a r => exact ⟨_, _, _, .vex (l := false) (el := .dword) rfl h⟩
  | vpunpckhqdqXmm e d a r => exact ⟨_, _, _, .vex (l := false) (el := .qword) rfl h⟩
  | vpunpckhbwYmm e d a r => exact ⟨_, _, _, .vex (l := true) (el := .byte) rfl h⟩
  | vpunpckhwdYmm e d a r => exact ⟨_, _, _, .vex (l := true) (el := .word) rfl h⟩
  | vpunpckhdqYmm e d a r => exact ⟨_, _, _, .vex (l := true) (el := .dword) rfl h⟩
  | vpunpckhqdqYmm e d a r => exact ⟨_, _, _, .vex (l := true) (el := .qword) rfl h⟩

/-- The prefixes and the REX byte of a well-formed instruction are a run that the decoder reads in its mode and parts again. -/
theorem spells_run {m : CodeMode} {ps : List Pfx} {rx : Option Rex} {body : List Byte} {i : Instr}
    (h : Spells m ps rx body i) :
    Machine.PrefixRun m ps rx ∧ splitRex (ps ++ (rx.map Pfx.rex).toList) = (ps, rx) := by
  rw [← rexOk_iff]
  cases h with
  | mmx hwf hi =>
    obtain ⟨hrex, hrep, -⟩ := wfMmx_iff.1 hwf
    exact ⟨hrex, hrep⟩
  | sse hwf =>
    obtain ⟨hrex, hrep, -⟩ := wfSse_iff.1 hwf
    exact ⟨hrex, hrep⟩
  | vex hrx hwf =>
    obtain ⟨hpfx, -⟩ := wfVex_iff.1 hwf
    obtain ⟨hrep, -, -, -, -, hnorex⟩ := vexPfxOk_iff.1 hpfx
    have hlast : (splitRex ps).2 = none := splitRex_snd_eq_none (isRex_of_any hnorex)
    exact ⟨by simp [rexOk, hrx, hnorex, hlast], hrep⟩

theorem spells_head {m : CodeMode} {ps : List Pfx} {rx : Option Rex} {body : List Byte} {i : Instr}
    (h : Spells m ps rx body i) : ∃ b tail, body = b :: tail ∧ prefixOf m b = none := by
  cases h with
  | mmx | sse => exact ⟨_, _, rfl, by cases m <;> decide⟩
  | @vex v dst src1 src2 l el hrx hwf => cases v <;> exact ⟨_, _, rfl, by cases m <;> decide⟩

/-! ### Lengths -/

theorem length_encode (i : Instr) : (encode i).length = i.len := by
  open Laws.EncodedLength in
  cases i with
  | punpckhbwMm e d r | punpckhwdMm e d r | punpckhdqMm e d r | punpckhbwXmm e d r | punpckhwdXmm e d r
  | punpckhdqXmm e d r | punpckhqdqXmm e d r => exact encodeLegacy_length ..
  | vpunpckhbwXmm e d a r | vpunpckhwdXmm e d a r | vpunpckhdqXmm e d a r | vpunpckhqdqXmm e d a r
  | vpunpckhbwYmm e d a r | vpunpckhwdYmm e d a r | vpunpckhdqYmm e d a r | vpunpckhqdqYmm e d a r =>
    exact encodeVex_length ..

/-- ModRM, and at most a SIB byte and four displacement bytes (30_encoding.md R104). -/
theorem rmLen_bounds {k : Nat} (src : RM k) : 1 ≤ src.len ∧ src.len ≤ 6 := by
  have hdisp : ∀ d : Disp, d.len ≤ 4 := fun d => by cases d <;> simp [Disp.len]
  cases src with
  | reg r => simp [RM.len]
  | mem o =>
    obtain ⟨g, asz, f⟩ := o
    cases f with
    | base _ d | sib _ _ _ d | regs16 _ d =>
      have := hdisp d
      simp only [RM.len, AddrForm.len]
      omega
    | sibNoBase _ _ _ | abs32 _ | ripRel _ | abs16 _ => simp [RM.len, AddrForm.len]

theorem length_encodeRM_bounds {k : Nat} (low : BitVec k → BitVec 3) (reg : BitVec 3) (src : RM k) :
    1 ≤ (encodeRM low reg src).length ∧ (encodeRM low reg src).length ≤ 6 := by
  rw [Laws.EncodedLength.encodeRM_length]
  exact rmLen_bounds src

/-- Nothing is repeated in a run, so it is no longer than its groups are many (30_encoding.md R91, R104). -/
theorem length_prefixBytes_le {m : CodeMode} {ps : List Pfx} {rx : Option Rex} {gs : List Nat}
    (hrun : Machine.PrefixRun m ps rx) (hps : ∀ p ∈ ps, p.group ∈ gs) (hrx : rx.isSome = true → 3 ∈ gs) :
    (Machine.prefixBytes ps rx).length ≤ gs.length := by
  rw [prefixBytes_eq_map, List.length_map]
  refine length_le_of_groups hrun.1 fun p hp => ?_
  rcases List.mem_append.1 hp with hmem | hmem
  · exact hps p hmem
  · cases rx with
    | none => cases hmem
    | some r =>
      rw [List.mem_singleton.1 hmem]
      exact hrx rfl

theorem group_le_three {ps : List Pfx} (hne : Pfx.repne ∉ ps) (hp : Pfx.rep ∉ ps) (hl : Pfx.lock ∉ ps) :
    ∀ p ∈ ps, p.group ≤ 3 := by
  intro p hmem
  cases p with
  | repne => exact absurd hmem hne
  | rep => exact absurd hmem hp
  | lock => exact absurd hmem hl
  | opSize | addrSize | seg _ | rex _ => simp [Pfx.group]

theorem group_ne_zero {ps : List Pfx} (h66 : Pfx.opSize ∉ ps) : ∀ p ∈ ps, p.group ≠ 0 := by
  intro p hmem
  cases p with
  | opSize => exact absurd hmem h66
  | addrSize | seg _ | rex _ | lock | repne | rep => simp [Pfx.group]

/-- Before an MMX form: 67, a segment override and a REX byte at most. -/
theorem length_prefixBytes_mmx {m : CodeMode} {ps : List Pfx} {rx : Option Rex} {src : RM 3}
    (hwf : wfMmx m ⟨ps, rx⟩ src = true) : (Machine.prefixBytes ps rx).length ≤ 3 := by
  obtain ⟨hrex, hrep, hne, hp, hl, h66, -⟩ := wfMmx_iff.1 hwf
  refine length_prefixBytes_le (gs := [1, 2, 3]) ((rexOk_iff ..).1 ⟨hrex, hrep⟩).1 (fun p hmem => ?_) (by simp)
  have hle := group_le_three hne hp hl p hmem
  have hpos := group_ne_zero h66 p hmem
  simp only [List.mem_cons, List.not_mem_nil]
  omega

/-- Before a legacy SSE form: the same and 66. -/
theorem length_prefixBytes_sse {m : CodeMode} {ps : List Pfx} {rx : Option Rex} {dst : VecReg} {src : RM 4}
    (hwf : wfSse m ⟨ps, rx⟩ dst src = true) :
    1 ≤ (Machine.prefixBytes ps rx).length ∧ (Machine.prefixBytes ps rx).length ≤ 4 := by
  obtain ⟨hrex, hrep, hne, hp, hl, h66, -⟩ := wfSse_iff.1 hwf
  constructor
  · rw [prefixBytes_eq_map, List.length_map]
    exact List.length_pos_of_mem (List.mem_append_left _ h66)
  · refine length_prefixBytes_le (gs := [0, 1, 2, 3]) ((rexOk_iff ..).1 ⟨hrex, hrep⟩).1 (fun p hmem => ?_) (by simp)
    have hle := group_le_three hne hp hl p hmem
    simp only [List.mem_cons, List.not_mem_nil]
    omega

/-- Before a VEX form: 67 and a segment override at most. -/
theorem length_prefixBytes_vex {m : CodeMode} {ps : List Pfx} (hpfx : vexPfxOk ps = true)
    (hrun : Machine.PrefixRun m ps none) : (Machine.prefixBytes ps none).length ≤ 2 := by
  obtain ⟨-, hne, hp, hl, h66, hnorex⟩ := vexPfxOk_iff.1 hpfx
  refine length_prefixBytes_le (gs := [1, 2]) hrun (fun p hmem => ?_) nofun
  have hle := group_le_three hne hp hl p hmem
  have hpos := group_ne_zero h66 p hmem
  have hrex := (isRex_iff_group p).not.1 (List.any_eq_false.1 hnorex p hmem)
  simp only [List.mem_cons, List.not_mem_nil]
  omega

/-- How many bytes the shapes have: prefixes, VEX or 0F, the opcode byte, ModRM and what follows (30_encoding.md R104). -/
theorem spells_len {m : CodeMode} {ps : List Pfx} {rx : Option Rex} {body : List Byte} {i : Instr}
    (h : Spells m ps rx body i) : 3 ≤ i.len ∧ i.len ≤ 12 ∧ (i.cls ≠ .mmx → 4 ≤ i.len) := by
  have hlen : i.len = (Machine.prefixBytes ps rx).length + body.length := by
    rw [← length_encode, spells_encode h, List.length_append]
  obtain ⟨hrun, -⟩ := spells_run h
  rw [hlen]
  cases h with
  | @mmx el dst src i hwf hi =>
    have hcls : i.cls = .mmx := by cases el <;> cases hi <;> rfl
    have hpfx := length_prefixBytes_mmx hwf
    have hrm := length_encodeRM_bounds (fun k => k) dst src
    simp only [List.length_cons]
    exact ⟨by omega, by omega, fun hne => absurd hcls hne⟩
  | @sse el dst src hwf =>
    have hpfx := length_prefixBytes_sse hwf
    have hrm := length_encodeRM_bounds lowReg (lowReg dst) src
    simp only [List.length_cons]
    omega
  | @vex v dst src1 src2 l el hrx hwf =>
    subst hrx
    have hpfx : (Machine.prefixBytes ps none).length ≤ 2 := length_prefixBytes_vex (wfVex_iff.1 hwf).1 hrun
    have hv : 2 ≤ v.len ∧ v.len ≤ 3 := by cases v <;> simp [VexPrefix.len]
    have hrm := length_encodeRM_bounds lowReg (lowReg dst) src2
    simp only [List.length_append, List.length_cons, Laws.EncodedLength.vexBytes_length]
    omega

/-! ### The decoder -/

theorem rexAllowed_of_prefixRun {m : CodeMode} {ps : List Pfx} {rx : Option Rex} (h : Machine.PrefixRun m ps rx) :
    m = .m64 ∨ (ps ++ (rx.map Pfx.rex).toList).any Pfx.isRex = false := by
  obtain ⟨-, hm | ⟨rfl, hnorex⟩⟩ := h
  · exact .inl hm
  · exact .inr (by simpa using hnorex)

/-- What the decoder reads before the opcode is a run that its mode admits. -/
theorem prefixRun_takePrefixes {m : CodeMode} {bs : List Byte} (hrep : repeated (takePrefixes m bs).1 = false) :
    Machine.PrefixRun m (splitRex (takePrefixes m bs).1).1 (splitRex (takePrefixes m bs).1).2 ∧
      splitRex ((splitRex (takePrefixes m bs).1).1 ++ ((splitRex (takePrefixes m bs).1).2.map Pfx.rex).toList) =
        ((splitRex (takePrefixes m bs).1).1, (splitRex (takePrefixes m bs).1).2) := by
  have hallowed := rexAllowed_takePrefixes m bs
  generalize (takePrefixes m bs).1 = run at *
  rw [Machine.PrefixRun, splitRex_join]
  refine ⟨⟨hrep, hallowed.imp_right fun hnorex => ?_⟩, rfl⟩
  have hlast := splitRex_snd_eq_none (isRex_of_any hnorex)
  rw [(splitRex_eq_self_iff run).2 hlast]
  exact ⟨rfl, hnorex⟩

/-- The limit of 15 bytes is never reached, so the decoder is the read of the prefixes and of the opcode after them (30_encoding.md
R102, R104). -/
theorem decode_eq (m : CodeMode) (bs : List Byte) :
    decode m bs =
      if repeated (takePrefixes m bs).1 then .error .repeatedPrefix
      else decodeOpcode m (splitRex (takePrefixes m bs).1).1 (splitRex (takePrefixes m bs).1).2 (takePrefixes m bs).2 := by
  unfold decode
  split
  · rfl
  · next hrep =>
    split
    · next d hop => exact hop.symm
    · next i rest hop =>
      obtain ⟨hrex, hrep⟩ := (rexOk_iff ..).2 (prefixRun_takePrefixes (by simpa using hrep))
      obtain ⟨body, hspells, -⟩ := (decodeOpcode_ok_iff hrex hrep).1 hop
      obtain ⟨-, hlen, -⟩ := spells_len hspells
      rw [hop, if_neg (by simp [Config.maxInstrLen]; omega)]

/-- After a run of prefixes and a byte that is none, the decoder reads the opcode at that byte. -/
theorem decode_prefixBytes {m : CodeMode} {ps : List Pfx} {rx : Option Rex} (hrun : Machine.PrefixRun m ps rx) {b : Byte}
    (hb : prefixOf m b = none) (tail : List Byte) :
    decode m (Machine.prefixBytes ps rx ++ b :: tail) =
      decodeOpcode m (readEnc ps rx).pfx (readEnc ps rx).rex (b :: tail) := by
  have hread : takePrefixes m (b :: tail) = ([], b :: tail) := by simp [takePrefixes, hb]
  have hrep : repeated (ps ++ (rx.map Pfx.rex).toList) = false := hrun.1
  rw [decode_eq, prefixBytes_eq_map, takePrefixes_append (rexAllowed_of_prefixRun hrun), hread, List.append_nil, hrep]
  rfl

/-- The decoder answers an instruction exactly where it is well formed and its encoding stands (30_encoding.md R80 to R104). -/
theorem decode_ok_iff {m : CodeMode} {bs rest : List Byte} {i : Instr} :
    decode m bs = .ok (i, rest) ↔ i.wf m = true ∧ bs = encode i ++ rest := by
  constructor
  · intro h
    have hrun := prefixRun_takePrefixes (not_repeated_of_decode h)
    obtain ⟨hrex, hrep⟩ := (rexOk_iff ..).2 hrun
    obtain ⟨body, hspells, htail⟩ := (decodeOpcode_ok_iff hrex hrep).1 (decodeOpcode_of_decode h)
    refine ⟨spells_wf hspells, ?_⟩
    rw [spells_encode hspells, List.append_assoc, ← htail, prefixBytes_eq_map, splitRex_join]
    exact takePrefixes_bytes m bs
  · rintro ⟨hwf, rfl⟩
    obtain ⟨ps, rx, body, hspells⟩ := exists_spells_of_wf hwf
    obtain ⟨hrun, hsplit⟩ := spells_run hspells
    obtain ⟨hrex, hrep⟩ := (rexOk_iff ..).2 ⟨hrun, hsplit⟩
    obtain ⟨b, tail, hbody, hb⟩ := spells_head hspells
    rw [spells_encode hspells, List.append_assoc, hbody, List.cons_append, decode_prefixBytes hrun hb,
      readEnc_eq (e := ⟨ps, rx⟩) hsplit]
    exact (decodeOpcode_ok_iff hrex hrep).2 ⟨body, hspells, by rw [hbody, List.cons_append]⟩

/-- Settles O10: the encoding of a well-formed instruction is what the decoder reads as it. -/
theorem decodeOfEncode : Obligations.DecodeOfEncode :=
  fun _ _ _ hwf => decode_ok_iff.2 ⟨hwf, rfl⟩

/-- Settles O11: bytes that the decoder reads as an instruction are its encoding and the rest. -/
theorem encodeOfDecode : Obligations.EncodeOfDecode :=
  fun _ _ _ _ h => decode_ok_iff.1 h

end Sys2Proof
end

section
/-! PROOFS. DecoderAnswers: what the decoder answers where the bytes are no instruction of the page or carry an ignored REX byte,
and from these the settling of O12 to O17. -/

namespace Sys2Proof

/-! ### The limit of 15 bytes -/

theorem map_ne_tooLong {α β : Type} {f : α → β} {r : Except DecodeStop α} (h : r ≠ .error .tooLong) :
    r.map f ≠ .error .tooLong := by
  cases r with
  | error d => simpa [Except.map] using h
  | ok x => exact nofun

theorem take8_ne_tooLong {bs : List Byte} : take8 bs ≠ .error .tooLong := by
  unfold take8
  split <;> exact nofun

theorem take16_ne_tooLong {bs : List Byte} : take16 bs ≠ .error .tooLong := by
  unfold take16
  split <;> exact nofun

theorem take32_ne_tooLong {bs : List Byte} : take32 bs ≠ .error .tooLong := by
  unfold take32
  split <;> exact nofun

theorem takeForm16_ne_tooLong {mod : BitVec 2} {rm : BitVec 3} {bs : List Byte} :
    takeForm16 mod rm bs ≠ .error .tooLong := by
  have hdisp : takeDisp16 mod bs ≠ .error .tooLong := by
    unfold takeDisp16
    split_ifs
    · exact nofun
    · exact map_ne_tooLong take8_ne_tooLong
    · exact map_ne_tooLong take16_ne_tooLong
  unfold takeForm16
  split
  · exact map_ne_tooLong take16_ne_tooLong
  · exact map_ne_tooLong hdisp

theorem takeDisp32_ne_tooLong {mod : BitVec 2} {bs : List Byte} : takeDisp32 mod bs ≠ .error .tooLong := by
  unfold takeDisp32
  split_ifs
  · exact nofun
  · exact map_ne_tooLong take8_ne_tooLong
  · exact map_ne_tooLong take32_ne_tooLong

theorem takeForm32_ne_tooLong {m : CodeMode} {x b : Bool} {mod : BitVec 2} {rm : BitVec 3} {bs : List Byte} :
    takeForm32 m x b mod rm bs ≠ .error .tooLong := by
  have hsib : takeSib x b mod bs ≠ .error .tooLong := by
    unfold takeSib
    split
    · exact nofun
    · split
      · exact map_ne_tooLong take32_ne_tooLong
      · exact map_ne_tooLong takeDisp32_ne_tooLong
  unfold takeForm32
  split_ifs
  · exact hsib
  · exact map_ne_tooLong take32_ne_tooLong
  · exact map_ne_tooLong take32_ne_tooLong
  · exact map_ne_tooLong takeDisp32_ne_tooLong

theorem takeRM_ne_tooLong {k : Nat} {m : CodeMode} {ps : List Pfx} {x b : Bool} {mkReg : BitVec 3 → BitVec k} {modrm : Byte}
    {bs : List Byte} : takeRM m ps x b mkReg modrm bs ≠ .error .tooLong := by
  unfold takeRM
  split
  · exact nofun
  · refine map_ne_tooLong (map_ne_tooLong ?_)
    split
    · exact takeForm16_ne_tooLong
    · exact takeForm32_ne_tooLong

theorem decodeLegacy_ne_tooLong {m : CodeMode} {e : LegacyEnc} {bs : List Byte} : decodeLegacy m e bs ≠ .error .tooLong := by
  have hmmx : ∀ (el : Elem) (tail : List Byte), takeMmxOperands m e el tail ≠ .error .tooLong := fun el tail => by
    unfold takeMmxOperands
    split
    · exact nofun
    · split
      · next hrm => exact fun h => takeRM_ne_tooLong (hrm.trans (by simpa using h))
      · split <;> exact nofun
  have hsse : ∀ (el : Elem) (tail : List Byte), takeSseOperands m e el tail ≠ .error .tooLong := fun el tail => by
    unfold takeSseOperands
    split
    · exact nofun
    · exact map_ne_tooLong takeRM_ne_tooLong
  unfold decodeLegacy
  split
  · exact nofun
  · split
    · exact nofun
    · split_ifs
      · exact nofun
      · exact nofun
      · exact hsse _ _
      · exact nofun
      · exact hmmx _ _

theorem decodeVexTail_ne_tooLong {m : CodeMode} {ps : List Pfx} {v : VexPrefix} {mapOk : Bool} {last : Byte} {bs : List Byte} :
    decodeVexTail m ps v mapOk last bs ≠ .error .tooLong := by
  have hops : ∀ (src1 : VecReg) (l : Bool) (el : Elem) (tail : List Byte),
      takeVexOperands m ⟨ps, v⟩ src1 l el tail ≠ .error .tooLong := fun src1 l el tail => by
    unfold takeVexOperands
    split
    · exact nofun
    · exact map_ne_tooLong takeRM_ne_tooLong
  unfold decodeVexTail
  split
  · exact nofun
  · split
    · exact nofun
    · split_ifs
      · exact nofun
      · exact nofun
      · exact hops _ _ _ _

theorem decodeVex_ne_tooLong {m : CodeMode} {ps : List Pfx} {rx : Option Rex} {three : Bool} {bs : List Byte} :
    decodeVex m ps rx three bs ≠ .error .tooLong := by
  unfold decodeVex
  split
  · exact nofun
  · split_ifs
    · exact nofun
    · exact nofun
    · split
      · exact nofun
      · exact decodeVexTail_ne_tooLong
    · exact decodeVexTail_ne_tooLong

theorem decodeOpcode_ne_tooLong {m : CodeMode} {ps : List Pfx} {rx : Option Rex} {bs : List Byte} :
    decodeOpcode m ps rx bs ≠ .error .tooLong := by
  unfold decodeOpcode
  split
  · exact nofun
  · split_ifs
    · exact decodeLegacy_ne_tooLong
    · exact decodeVex_ne_tooLong
    · exact decodeVex_ne_tooLong
    · exact nofun

/-- Settles O12: the bytes of an instruction are counted shape by shape, so the limit of 15 bytes is never reached. -/
theorem decodedLengths : Obligations.DecodedLengths := by
  refine ⟨fun m bs rest i h => ?_, fun m bs => ?_⟩
  · obtain ⟨hwf, rfl⟩ := decode_ok_iff.1 h
    obtain ⟨ps, rx, body, hspells⟩ := exists_spells_of_wf hwf
    obtain ⟨hmin, hmax, hmmx⟩ := spells_len hspells
    exact ⟨hmin, hmax, hmmx, by rw [List.length_append, length_encode]⟩
  · rw [decode_eq]
    split
    · exact nofun
    · exact decodeOpcode_ne_tooLong

/-! ### The prefixes read before an opcode -/

/-- Before VEX bytes a REX byte is refused wherever it stands (30_encoding.md R100; log 21). -/
theorem badBeforeVex_readEnc_iff (ps : List Pfx) (rx : Option Rex) :
    badBeforeVex (readEnc ps rx).pfx (readEnc ps rx).rex = true ↔
      Pfx.opSize ∈ ps ∨ Pfx.repne ∈ ps ∨ Pfx.rep ∈ ps ∨ Pfx.lock ∈ ps ∨ rx.isSome = true ∨
        ps.any Pfx.isRex = true := by
  have hrex : (readEnc ps rx).rex.isSome = true ∨ (readEnc ps rx).pfx.any Pfx.isRex = true ↔
      rx.isSome = true ∨ ps.any Pfx.isRex = true := by
    have hany : ∀ (qs : List Pfx) (ry : Option Rex),
        (qs ++ (ry.map Pfx.rex).toList).any Pfx.isRex = true ↔ ry.isSome = true ∨ qs.any Pfx.isRex = true := by
      intro qs ry
      cases ry <;> simp [Pfx.isRex]
    rw [← hany, ← hany, readEnc_join]
  simp only [badBeforeVex, Bool.or_eq_true, hrex, List.contains_iff_mem, mem_readEnc (p := .opSize) rfl,
    mem_readEnc (p := .repne) rfl, mem_readEnc (p := .rep) rfl, mem_readEnc (p := .lock) rfl]
  tauto

/-- Settles O13: the check of the prefixes stands before everything else that the VEX bytes say. -/
theorem prefixBeforeVexInvalid : Obligations.PrefixBeforeVexInvalid := by
  intro m ps rx c b1 rest hrun hc hstart hbad
  have hbad := (badBeforeVex_readEnc_iff ps rx).2 hbad
  have hstart : ¬ (m ≠ .m64 ∧ fieldHi b1 ≠ 3#2) := by tauto
  rcases hc with rfl | rfl
  · rw [decode_prefixBytes hrun (by cases m <;> rfl), decodeOpcode_three]
    simp only [decodeVex, if_neg hstart, if_pos hbad]
  · rw [decode_prefixBytes hrun (by cases m <;> rfl), decodeOpcode_two]
    simp only [decodeVex, if_neg hstart, if_pos hbad]

/-- The legacy shape after its prefixes, in the order of the checks of 30_encoding.md R102. -/
theorem decode_legacy {m : CodeMode} {ps : List Pfx} {rx : Option Rex} (hrun : Machine.PrefixRun m ps rx) (el : Elem)
    (tail : List Byte) :
    decode m (Machine.prefixBytes ps rx ++ 0x0F#8 :: el.toOp :: tail) =
      if Pfx.repne ∈ ps ∨ Pfx.rep ∈ ps then .error .notOnPage
      else if Pfx.lock ∈ ps then .error .invalidOpcode
      else if Pfx.opSize ∈ ps then
        takeSseOperands m (readEnc ps rx) el tail
      else if el = .qword then .error .needs66
      else takeMmxOperands m (readEnc ps rx) el tail := by
  rw [decode_prefixBytes hrun (by cases m <;> rfl), decodeOpcode_legacy]
  simp only [decodeLegacy, elemOfOp_toOp, Bool.or_eq_true, List.contains_iff_mem, mem_readEnc (p := .opSize) rfl,
    mem_readEnc (p := .repne) rfl, mem_readEnc (p := .rep) rfl, mem_readEnc (p := .lock) rfl]

/-- Settles O14, by the order of the checks of a legacy form. -/
theorem lockPrefixInvalid : Obligations.LockPrefixInvalid := by
  intro m ps rx el rest hrun hlock hrepne hrep
  rw [decode_legacy hrun, if_neg (not_or.2 ⟨hrepne, hrep⟩), if_pos hlock]

/-- Another pp or mmmmm is refused for every opcode byte (30_encoding.md R97, R105). -/
theorem decodeVexTail_notOnPage {m : CodeMode} {ps : List Pfx} {v : VexPrefix} {mapOk : Bool} {last : Byte}
    (h : mapOk = false ∨ vexPp last ≠ 1#2) (op : Byte) (bs : List Byte) :
    decodeVexTail m ps v mapOk last (op :: bs) = .error .notOnPage := by
  unfold decodeVexTail
  dsimp only
  split
  · rfl
  · exact if_pos (by simpa using h)

theorem decodeVexTail_vexBOutside64 {m : CodeMode} {ps : List Pfx} {v : VexPrefix} {last : Byte} (hm : m ≠ .m64)
    (hb : v.b = true) (hpp : vexPp last = 1#2) (el : Elem) (bs : List Byte) :
    decodeVexTail m ps v true last (el.toOp :: bs) = .error .vexBOutside64 := by
  simp [decodeVexTail, hpp, hm, hb]

/-- Settles O15, clause by clause of the decoder. -/
theorem neighbourEncodingsRefused : Obligations.NeighbourEncodingsRefused := by
  intro m ps rx rest hrun
  refine ⟨fun h66 hlock hrepne hrep => ?_, fun el hrepeat => ?_, ?_, ?_⟩
  · exact (decode_legacy hrun .qword rest).trans (by simp [h66, hlock, hrepne, hrep])
  · rw [decode_legacy hrun, if_pos hrepeat]
  · rw [decode_prefixBytes hrun (by cases m <;> rfl)]
    rfl
  · rintro rfl hnorex h66 hlock hrepne hrep b1 b2 op hstart
    have henc : readEnc ps none = ⟨ps, none⟩ := readEnc_none (splitRex_snd_eq_none (isRex_of_any hnorex))
    have hrepeated : repeated ps = false := by simpa using hrun.1
    have hbad : badBeforeVex ps none = false := (badBeforeVex_eq_false_iff hrepeated none).2
      ⟨rfl, vexPfxOk_iff.2 ⟨hrepeated, hrepne, hrep, hlock, h66, hnorex⟩⟩
    have hstart : ¬ (m ≠ .m64 ∧ fieldHi b1 ≠ 3#2) := by tauto
    have hthree : ∀ tail, decode m (Machine.prefixBytes ps none ++ 0xC4#8 :: b1 :: b2 :: tail) =
        decodeVexTail m ps (vexThree b1 b2) (b1.extractLsb' 0 5 == 1#5) b2 tail := fun tail => by
      rw [decode_prefixBytes hrun (by cases m <;> rfl), decodeOpcode_three]
      simp [decodeVex, henc, hbad, if_neg hstart]
    have htwo : ∀ tail, decode m (Machine.prefixBytes ps none ++ 0xC5#8 :: b1 :: tail) =
        decodeVexTail m ps (vexTwo b1) true b1 tail := fun tail => by
      rw [decode_prefixBytes hrun (by cases m <;> rfl), decodeOpcode_two]
      simp [decodeVex, henc, hbad, if_neg hstart]
    refine ⟨fun hpp => ?_, fun hfield => ?_, fun hm hmap hpp hb el => ?_⟩
    · rw [htwo, decodeVexTail_notOnPage (.inr hpp)]
    · rw [hthree, decodeVexTail_notOnPage (hfield.imp_left fun h => by simpa using h)]
    · have hvexb : (vexThree b1 b2).b = true := by rw [vexThree, VexPrefix.b, hb, Bool.not_false]
      rw [hthree, hmap]
      exact decodeVexTail_vexBOutside64 hm hvexb hpp el rest

/-! ### Repeated prefixes -/

theorem decode_of_repeated {m : CodeMode} {run : List Pfx} (hallowed : m = .m64 ∨ run.any Pfx.isRex = false)
    (hrep : repeated run = true) (bs : List Byte) :
    decode m (Machine.prefixBytes run none ++ bs) = .error .repeatedPrefix := by
  have hmore : ∀ more, repeated (run ++ more) = true := fun more => by
    rw [← Bool.not_eq_false, repeated_eq_false_iff] at hrep ⊢
    rw [List.map_append, List.nodup_append]
    exact fun h => hrep h.1
  rw [decode_eq, prefixBytes_eq_map, Option.map_none, Option.toList_none, List.append_nil, takePrefixes_append hallowed, hmore]
  rfl

/-- Settles O16: the two prefixes are of one group. -/
theorem repeatedPrefixRefused : Obligations.RepeatedPrefixRefused := by
  intro m ps qs us p q rest hallowed hclash
  have hgroup : p.group = q.group := by
    rcases hclash with rfl | ⟨g, h, rfl, rfl⟩ | ⟨g, h, rfl, rfl⟩ <;> rfl
  refine decode_of_repeated hallowed ?_ rest
  rw [← Bool.not_eq_false, repeated_eq_false_iff]
  simp only [List.map_append, List.map_cons, hgroup]
  grind

/-! ### The ignored REX byte -/

theorem repeated_insert_rex {ps qs : List Pfx} (r : Rex) (hps : ps.any Pfx.isRex = false) (hqs : qs.any Pfx.isRex = false) :
    repeated (ps ++ .rex r :: qs) = repeated (ps ++ qs) := by
  have hgroup : Pfx.group (.rex r) ∉ (ps ++ qs).map Pfx.group := fun hmem => by
    obtain ⟨p, hp, hg⟩ := List.mem_map.1 hmem
    have hany : (ps ++ qs).any Pfx.isRex = false := by rw [List.any_append, hps, hqs, Bool.or_false]
    exact List.any_eq_false.1 hany p hp ((isRex_iff_group p).2 hg)
  rw [← Bool.not_inj_iff, Bool.eq_iff_iff, Bool.not_eq_true', Bool.not_eq_true', repeated_eq_false_iff,
    repeated_eq_false_iff, List.map_append, List.map_cons, List.nodup_middle, List.nodup_cons, ← List.map_append]
  exact and_iff_right hgroup

/-- Only the end of a run says whether its last REX byte counts (30_encoding.md R92). -/
theorem splitRex_append_snd (ps : List Pfx) {qs : List Pfx} (hqs : qs ≠ []) : (splitRex (ps ++ qs)).2 = (splitRex qs).2 := by
  induction ps with
  | nil => rfl
  | cons p ps ih =>
    have hne : ∀ r, p = .rex r → ps ++ qs = [] → False := fun _ _ h => hqs (List.append_eq_nil_iff.1 h).2
    rw [List.cons_append, splitRex.eq_3 p _ hne]
    exact ih

open Machine in
theorem addrSizeOf_dropRex (m : CodeMode) (e : LegacyEnc) : addrSizeOf m (dropRex e).pfx = addrSizeOf m e.pfx := by
  have hcontains : (dropRex e).pfx.contains .addrSize = e.pfx.contains .addrSize := by
    rw [Bool.eq_iff_iff, List.contains_iff_mem, List.contains_iff_mem]
    simp [dropRex, Pfx.isRex]
  simp only [addrSizeOf, hcontains]

open Machine in
theorem segOf_dropRex (m : CodeMode) (e : LegacyEnc) : segOf m (dropRex e).pfx = segOf m e.pfx := by
  have hover : ∀ ps : List Pfx, overrideOf (ps.filter fun p => !p.isRex) = overrideOf ps := by
    intro ps
    induction ps with
    | nil => rfl
    | cons p ps ih =>
      cases p with
      | seg g => rfl
      | opSize | addrSize | lock | repne | rep | rex _ => exact ih
  funext f
  simp only [segOf, dropRex, hover]

open Machine in
theorem takeRM_dropRex {k : Nat} (m : CodeMode) (e : LegacyEnc) (x b : Bool) (mkReg : BitVec 3 → BitVec k) (modrm : Byte)
    (bs : List Byte) : takeRM m (dropRex e).pfx x b mkReg modrm bs = takeRM m e.pfx x b mkReg modrm bs := by
  simp only [takeRM, takeMem, addrSizeOf_dropRex, segOf_dropRex]

open Machine in
/-- An ignored REX byte changes nothing of a legacy SSE form but the encoding it carries (30_encoding.md R92). -/
theorem takeSseOperands_dropRex (m : CodeMode) (e : LegacyEnc) (el : Elem) (bs : List Byte) :
    takeSseOperands m (dropRex e) el bs = (takeSseOperands m e el bs).map fun d => (dropIgnoredRex d.1, d.2) := by
  have hinstr : ∀ (d : VecReg) (src : RM 4), sseInstr (dropRex e) d src el = dropIgnoredRex (sseInstr e d src el) :=
    fun d src => by cases el <;> rfl
  cases bs with
  | nil => rfl
  | cons modrm bs =>
    simp only [takeSseOperands, takeRM_dropRex, hinstr]
    change (takeRM m e.pfx e.x e.b (extReg e.b) modrm bs).map _ = ((takeRM m e.pfx e.x e.b (extReg e.b) modrm bs).map _).map _
    cases takeRM m e.pfx e.x e.b (extReg e.b) modrm bs <;> rfl

open Machine in
/-- An ignored REX byte changes nothing of an MMX form but the encoding it carries (30_encoding.md R92). -/
theorem takeMmxOperands_dropRex (m : CodeMode) (e : LegacyEnc) (el : Elem) (bs : List Byte) :
    takeMmxOperands m (dropRex e) el bs = (takeMmxOperands m e el bs).map fun d => (dropIgnoredRex d.1, d.2) := by
  cases bs with
  | nil => rfl
  | cons modrm bs =>
    have hrm : takeRM m (dropRex e).pfx (dropRex e).x (dropRex e).b (fun r => r) modrm bs =
        takeRM m e.pfx e.x e.b (fun r => r) modrm bs := takeRM_dropRex ..
    simp only [takeMmxOperands, hrm]
    cases takeRM m e.pfx e.x e.b (fun r => r) modrm bs with
    | error d => rfl
    | ok r => cases el <;> rfl

open Machine in
/-- Settles O17: the run is one with and without the REX byte, and its operands are the same. -/
theorem rexBeforePrefixIgnored : Obligations.RexBeforePrefixIgnored := by
  intro ps qs r el tail hne hps hqs
  have hbytes : prefixBytes ps (some r) ++ prefixBytes qs none = prefixBytes (ps ++ .rex r :: qs) none := by
    simp [prefixBytes, Pfx.toByte]
  have hlast : (splitRex qs).2 = none := splitRex_snd_eq_none (isRex_of_any hqs)
  have henc : readEnc (ps ++ qs) none = ⟨ps ++ qs, none⟩ := readEnc_none ((splitRex_append_snd ps hne).trans hlast)
  have henc' : readEnc (ps ++ .rex r :: qs) none = ⟨ps ++ .rex r :: qs, none⟩ := by
    refine readEnc_none ?_
    rw [List.append_cons]
    exact (splitRex_append_snd _ hne).trans hlast
  have hrep := repeated_insert_rex r hps hqs
  rw [hbytes]
  cases hr : repeated (ps ++ qs) with
  | true =>
    rw [decode_of_repeated (.inl rfl) hr, decode_of_repeated (.inl rfl) (hrep.trans hr)]
    rfl
  | false =>
    have hrun : PrefixRun .m64 (ps ++ qs) none := ⟨by simpa using hr, .inl rfl⟩
    have hrun' : PrefixRun .m64 (ps ++ .rex r :: qs) none := ⟨by simpa using hrep.trans hr, .inl rfl⟩
    have hmem : ∀ p : Pfx, p.isRex = false → (p ∈ ps ++ .rex r :: qs ↔ p ∈ ps ++ qs) := fun p hp => by
      simp [ne_rex_of_isRex hp r]
    have hdrop : dropRex ⟨ps ++ .rex r :: qs, none⟩ = ⟨ps ++ qs, none⟩ := by
      have hkeep : ∀ us : List Pfx, us.any Pfx.isRex = false → us.filter (fun p => !p.isRex) = us := fun us hus =>
        List.filter_eq_self.2 fun p hp => by rw [isRex_of_any hus p hp, Bool.not_false]
      rw [dropRex, List.filter_append, List.filter_cons_of_neg (by simp [Pfx.isRex]), hkeep ps hps, hkeep qs hqs]
    rw [decode_legacy hrun, decode_legacy hrun']
    simp only [henc, henc', hmem .opSize rfl, hmem .repne rfl,
      hmem .rep rfl, hmem .lock rfl, ← hdrop, takeSseOperands_dropRex, takeMmxOperands_dropRex]
    split_ifs <;> rfl

end Sys2Proof
end

section
/-! PROOFS. EncodingFields: what the fields of REX and of the VEX bytes say, as encodings of the instructions that they name, and
from these the settling of O9, O18 and O19. -/

namespace Sys2Proof

theorem decode_of_spells {m : CodeMode} {ps : List Pfx} {rx : Option Rex} {body : List Byte} {i : Instr}
    (h : Spells m ps rx body i) (rest : List Byte) :
    decode m (Machine.prefixBytes ps rx ++ (body ++ rest)) = .ok (i, rest) :=
  decode_ok_iff.2 ⟨spells_wf h, by rw [spells_encode h, List.append_assoc]⟩

/-- Settles O9, word by word. -/
theorem specWordsDecode : Obligations.SpecWordsDecode := ⟨rfl, rfl, rfl, rfl, rfl, rfl⟩

/-! ### REX -/

theorem highReg_ofBool_append (hi : Bool) (lo : BitVec 3) : highReg (BitVec.ofBool hi ++ lo) = hi := highReg_extReg hi lo

theorem lowReg_ofBool_append (hi : Bool) (lo : BitVec 3) : lowReg (BitVec.ofBool hi ++ lo) = lo := lowReg_extReg hi lo

/-- Settles O18: the fields are those that the encoder writes for registers of these numbers. -/
theorem legacyRegisterFields : Obligations.LegacyRegisterFields := by
  intro w r x b el reg rm rest
  constructor
  · have hwf : wfSse .m64 ⟨[.opSize], some ⟨w, r, x, b⟩⟩ (BitVec.ofBool r ++ reg) (.reg (BitVec.ofBool b ++ rm)) =
        true := by
      have hsrc : rmOkVec .m64 [.opSize] x b (.reg (BitVec.ofBool b ++ rm)) = true :=
        beq_iff_eq.2 (highReg_ofBool_append b rm)
      exact wfSse_iff.2 ⟨rfl, rfl, by simp, by simp, by simp, by simp, highReg_ofBool_append r reg, hsrc⟩
    have h := decode_of_spells (Spells.sse (el := el) hwf) rest
    rwa [encodeRM, lowReg_ofBool_append, lowReg_ofBool_append] at h
  · intro i hi
    have hwf : wfMmx .m64 ⟨[], some ⟨w, r, x, b⟩⟩ (.reg rm) = true := rfl
    exact decode_of_spells (Spells.mmx hwf hi) rest

/-! ### VEX -/

/-- vvvv holds the first source inverted (30_encoding.md R94). -/
theorem vexLast_vvvv (top l : Bool) (v : BitVec 4) :
    vexLast top (v.getLsbD 3) (lowReg v) l = BitVec.ofBool top ++ ~~~v ++ BitVec.ofBool l ++ 1#2 := by
  revert top l v
  decide

/-- A VEX form of registers alone, with nothing before its VEX bytes. -/
theorem decode_vex_reg {m : CodeMode} {v : VexPrefix} {dst src1 src2 : VecReg} (hv : vexOk m v = true)
    (hdst : highReg dst = v.r) (hsrc1 : src1Ok m v src1 = true) (hsrc2 : highReg src2 = v.b) (l : Bool) (el : Elem)
    (rest : List Byte) :
    decode m (v.bytes src1 l ++ el.toOp :: (3#2 ++ lowReg dst ++ lowReg src2) :: rest) =
      .ok (vexInstr ⟨[], v⟩ dst src1 (.reg src2) l el, rest) := by
  have hwf : wfVex m ⟨[], v⟩ dst src1 (.reg src2) = true :=
    wfVex_iff.2 ⟨rfl, hv, hdst, hsrc1, by simp [rmOkVec, hsrc2]⟩
  have h := decode_of_spells (Spells.vex (rx := none) (l := l) (el := el) rfl hwf) rest
  rwa [List.append_assoc] at h

/-- Settles O19: the fields are those that the encoder writes for registers of these numbers. -/
theorem vexPrefixFields : Obligations.VexPrefixFields := by
  refine ⟨fun w r x b l v el reg rm rest => ?_, fun m w t l v el reg rm rest hm => ?_⟩
  · have hsrc1 : highReg v = v.getLsbD 3 := rfl
    have hthree := decode_vex_reg (m := .m64) (v := .three w r x b (v.getLsbD 3)) (src1 := v) rfl
      (highReg_ofBool_append r reg) (by simp [src1Ok, hsrc1, VexPrefix.v3]) (highReg_ofBool_append b rm) l el rest
    have htwo := decode_vex_reg (m := .m64) (v := .two r (v.getLsbD 3)) (src1 := v) rfl
      (highReg_ofBool_append r reg) (by simp [src1Ok, hsrc1, VexPrefix.v3]) (highReg_ofBool_append false rm) l el rest
    simp only [lowReg_ofBool_append, VexPrefix.bytes, vexLast_vvvv] at hthree htwo
    exact ⟨hthree, htwo⟩
  · have hsrc1 : ∀ p : VexPrefix, src1Ok m p (BitVec.ofBool false ++ v) = true := fun p => by
      rw [src1Ok, highReg_ofBool_append, beq_false_of_ne hm, Bool.false_and]
      rfl
    have hthree := decode_vex_reg (m := m) (v := .three w false false false (!t)) (Bool.or_true _)
      (highReg_ofBool_append false reg) (hsrc1 _) (highReg_ofBool_append false rm) l el rest
    have htwo := decode_vex_reg (m := m) (v := .two false false) (Bool.or_true _)
      (highReg_ofBool_append false reg) (hsrc1 _) (highReg_ofBool_append false rm) l el rest
    simp only [lowReg_ofBool_append, VexPrefix.bytes, vexLast, Bool.not_not] at hthree htwo
    exact ⟨hthree, htwo⟩

end Sys2Proof
end

section
/-! PROOFS. EffectiveAddresses: the sum of an address form reduced to any address size, and from it the settling of O21, O22 and
O23. -/

namespace Sys2Proof.Machine

/-! ### Displacements and indexes at an address size -/

theorem setWidth_signExtend {n w : Nat} (hw : w ≤ 64) (v : BitVec n) : (v.signExtend 64).setWidth w = v.signExtend w := by
  refine BitVec.eq_of_getLsbD_eq fun i hi => ?_
  simp only [BitVec.getLsbD_setWidth, BitVec.getLsbD_signExtend, hi, show i < 64 by omega, decide_true, Bool.true_and]

/-- A displacement extended to 64 bits and reduced is the displacement extended to the reduced size (30_encoding.md R103). -/
theorem setWidth_dispValue {w : Nat} (hw : w ≤ 64) (d : Disp) : (dispValue d).setWidth w = dispIn w d := by
  cases d with
  | absent => exact BitVec.setWidth_zero ..
  | d8 v | d16 v | d32 v => exact setWidth_signExtend hw v

/-- A scaled index reduced is the reduced index times 1, 2, 4 or 8 (30_encoding.md R88). -/
theorem setWidth_indexValue {w : Nat} (hw : w ≤ 64) (s : State) {i : GenReg} (hi : i ≠ 4#4) (sc : BitVec 2) :
    (s.indexValue i sc).setWidth w = (s.readGpr i).setWidth w * BitVec.ofNat w (2 ^ sc.toNat) := by
  have hpow : BitVec.twoPow w sc.toNat = BitVec.ofNat w (2 ^ sc.toNat) :=
    BitVec.eq_of_toNat_eq (by rw [BitVec.toNat_twoPow, BitVec.toNat_ofNat])
  rw [State.indexValue, if_neg hi, BitVec.setWidth_shiftLeft_of_le hw, BitVec.shiftLeft_eq_mul_twoPow, hpow]

theorem indexValue_four (s : State) (sc : BitVec 2) : s.indexValue 4 sc = 0#64 := rfl

/-! ### The sum of a form at an address size -/

section
variable {w : Nat} (hw : w ≤ 64) (s : State) (len : Nat)
include hw

theorem setWidth_base (b : GenReg) (d : Disp) :
    (s.formValue len (.base b d)).setWidth w = (s.readGpr b).setWidth w + dispIn w d := by
  rw [State.formValue, BitVec.setWidth_add _ _ hw, setWidth_dispValue hw]

theorem setWidth_sib (b : GenReg) {i : GenReg} (hi : i ≠ 4#4) (sc : BitVec 2) (d : Disp) :
    (s.formValue len (.sib b i sc d)).setWidth w =
      (s.readGpr b).setWidth w + (s.readGpr i).setWidth w * BitVec.ofNat w (2 ^ sc.toNat) + dispIn w d := by
  rw [State.formValue, BitVec.setWidth_add _ _ hw, BitVec.setWidth_add _ _ hw, setWidth_indexValue hw s hi,
    setWidth_dispValue hw]

theorem setWidth_sib_four (b : GenReg) (sc : BitVec 2) (d : Disp) :
    (s.formValue len (.sib b 4 sc d)).setWidth w = (s.readGpr b).setWidth w + dispIn w d := by
  rw [State.formValue, indexValue_four, BitVec.add_zero, BitVec.setWidth_add _ _ hw, setWidth_dispValue hw]

theorem setWidth_sibNoBase {i : GenReg} (hi : i ≠ 4#4) (sc : BitVec 2) (v : BitVec 32) :
    (s.formValue len (.sibNoBase i sc v)).setWidth w =
      (s.readGpr i).setWidth w * BitVec.ofNat w (2 ^ sc.toNat) + v.signExtend w := by
  rw [State.formValue, BitVec.setWidth_add _ _ hw, setWidth_indexValue hw s hi, setWidth_dispValue hw, dispIn]

theorem setWidth_sibNoBase_four (sc : BitVec 2) (v : BitVec 32) :
    (s.formValue len (.sibNoBase 4 sc v)).setWidth w = v.signExtend w := by
  rw [State.formValue, indexValue_four, BitVec.zero_add, setWidth_dispValue hw, dispIn]

theorem setWidth_abs32 (v : BitVec 32) : (s.formValue len (.abs32 v)).setWidth w = v.signExtend w := by
  rw [State.formValue, setWidth_dispValue hw, dispIn]

theorem setWidth_ripRel (v : BitVec 32) :
    (s.formValue len (.ripRel v)).setWidth w = s.rip.setWidth w + BitVec.ofNat w len + v.signExtend w := by
  rw [State.formValue, BitVec.setWidth_add _ _ hw, BitVec.setWidth_add _ _ hw, BitVec.setWidth_ofNat_of_le hw,
    setWidth_dispValue hw, dispIn]

theorem setWidth_abs16 (v : BitVec 16) : (s.formValue len (.abs16 v)).setWidth w = v.signExtend w := by
  rw [State.formValue, setWidth_dispValue hw, dispIn]

theorem setWidth_regs16 (rm : BitVec 3) (d : Disp) :
    (s.formValue len (.regs16 rm d)).setWidth w = (s.regs16Value rm).setWidth w + dispIn w d := by
  rw [State.formValue, BitVec.setWidth_add _ _ hw, setWidth_dispValue hw]

end

/-! ### Effective addresses -/

theorem effAddr_a16 (s : State) (len : Nat) (g : Seg) (f : AddrForm) :
    s.effAddr len ⟨g, .a16, f⟩ = ((s.formValue len f).setWidth 16).setWidth 64 := rfl

theorem effAddr_a32 (s : State) (len : Nat) (g : Seg) (f : AddrForm) :
    s.effAddr len ⟨g, .a32, f⟩ = ((s.formValue len f).setWidth 32).setWidth 64 := rfl

theorem effAddr_a64 (s : State) (len : Nat) (g : Seg) (f : AddrForm) :
    s.effAddr len ⟨g, .a64, f⟩ = (s.formValue len f).setWidth 64 := (BitVec.setWidth_eq _).symm

/-- Settles O21, row by row of the table. -/
theorem effectiveAddress16 : Obligations.EffectiveAddress16 := by
  intro s len g d v
  have hadd : ∀ a b : BitVec 64, (a + b).setWidth 16 = a.setWidth 16 + b.setWidth 16 :=
    fun a b => BitVec.setWidth_add a b (by decide)
  simp only [effAddr_a16, setWidth_regs16 (w := 16) (by decide), setWidth_abs16 (w := 16) (by decide), State.regs16Value,
    ← hadd, BitVec.signExtend_eq, and_true]
  exact ⟨rfl, rfl, rfl, rfl, rfl, rfl, rfl, rfl⟩

/-- Settles O22, form by form. -/
theorem effectiveAddress32 : Obligations.EffectiveAddress32 := by
  intro s len g b i sc d v
  have hw : 32 ≤ 64 := by decide
  simp only [effAddr_a32, setWidth_base hw, setWidth_sib_four hw, setWidth_sibNoBase_four hw, setWidth_abs32 hw,
    setWidth_ripRel hw, BitVec.signExtend_eq, true_and, and_true]
  refine ⟨fun hi => ?_, fun hi => ?_⟩
  · rw [setWidth_sib hw s len b hi]
  · rw [setWidth_sibNoBase hw s len hi, BitVec.signExtend_eq]

/-- Settles O23, form by form. -/
theorem effectiveAddress64 : Obligations.EffectiveAddress64 := by
  intro s len g b i sc d v
  have hw : 64 ≤ 64 := Nat.le_refl 64
  simp only [effAddr_a64, setWidth_base hw, setWidth_sib_four hw, setWidth_sibNoBase_four hw, setWidth_ripRel hw,
    BitVec.setWidth_eq s.rip, BitVec.setWidth_eq (s.readGpr _), true_and, and_true]
  refine ⟨fun hi => ?_, fun hi => ?_⟩
  · rw [setWidth_sib hw s len b hi, BitVec.setWidth_eq, BitVec.setWidth_eq]
  · rw [setWidth_sibNoBase hw s len hi, BitVec.setWidth_eq]

end Sys2Proof.Machine
end

section
/-! PROOFS. StepAndSpellings: the step by what its bytes decode to, the bytes that it fetches where they were placed, the two
spellings of a VEX form, and from these the settling of O1, O2, O8 and O46. -/

namespace Sys2Proof.Machine

/-! ### The step by what its bytes decode to -/

theorem step_of_decode_ok {s : State} {i : Instr} {rest : List Byte} (h : decode s.codeMode s.fetchBytes = .ok (i, rest)) :
    step s = exec i s := by
  rw [step, h]

theorem step_of_decode_error {s : State} {d : DecodeStop} (h : decode s.codeMode s.fetchBytes = .error d) :
    step s = s.decodeOutcome d := by
  rw [step, h]

/-- Settles O1. -/
theorem stepRunsDecodedInstruction : Obligations.StepRunsDecodedInstruction := by
  rintro s i - ⟨rest, hdec⟩
  exact step_of_decode_ok hdec

/-- Settles O2, reason by reason. -/
theorem stepWithoutInstruction : Obligations.StepWithoutInstruction := by
  intro s d hdec
  rw [step_of_decode_error hdec]
  refine ⟨?_, ?_, ?_, ?_, ?_, ?_, ?_⟩
  · rintro rfl
    rfl
  · rintro rfl
    rfl
  · rintro rfl
    rfl
  · rintro rfl
    rfl
  · rintro rfl
    rfl
  · rintro rfl hlt
    rw [State.decodeOutcome, State.truncatedRefusal, if_pos hlt]
  · rintro rfl hle
    rw [State.decodeOutcome, State.truncatedRefusal, if_neg (Nat.not_lt.2 hle)]

/-! ### The bytes that a step fetches -/

theorem memGet_memSetBytes_of_lt {span : Nat} {bs : List Byte} {m : List Host.Cell} {a x : Nat} (hx : x < a)
    (hspan : a + bs.length ≤ span) : memGet (memSetBytes span m a bs) x = memGet m x := by
  induction bs generalizing m a with
  | nil => rfl
  | cons b bs ih =>
    rw [List.length_cons] at hspan
    rw [memSetBytes, ih (Nat.lt_succ_of_lt hx) (by omega), Nat.mod_eq_of_lt (by omega), memGet_memSet_of_ne m b (by omega)]

/-- Bytes placed from an address on are read there, byte by byte. -/
theorem memGet_memSetBytes {span : Nat} {bs : List Byte} {m : List Host.Cell} {a k : Nat} (hk : k < bs.length)
    (hspan : a + bs.length ≤ span) : memGet (memSetBytes span m a bs) (a + k) = some bs[k] := by
  induction bs generalizing m a k with
  | nil => exact absurd hk (Nat.not_lt_zero k)
  | cons b bs ih =>
    rw [List.length_cons] at hspan hk
    rw [memSetBytes, Nat.mod_eq_of_lt (show a < span by omega)]
    cases k with
    | zero => exact (memGet_memSetBytes_of_lt (Nat.lt_succ_self a) (by omega)).trans (memGet_memSet_self m a b)
    | succ k =>
      rw [← Nat.add_assoc, Nat.add_right_comm]
      exact ih (Nat.lt_of_succ_lt_succ hk) (by omega)

theorem fetchFrom_eq {s : State} {bs : List Byte} {k : Nat}
    (h : ∀ (j : Nat) (hj : j < bs.length), s.fetchByte (k + j) = some bs[j]) : s.fetchFrom k bs.length = bs := by
  induction bs generalizing k with
  | nil => rfl
  | cons b bs ih =>
    have hhead : s.fetchByte k = some b := h 0 (Nat.succ_pos _)
    have htail : s.fetchFrom (k + 1) bs.length = bs := ih fun j hj => by
      rw [Nat.add_right_comm]
      exact h (j + 1) (Nat.succ_lt_succ hj)
    rw [List.length_cons, State.fetchFrom, hhead]
    exact congrArg (b :: ·) htail

theorem length_tableBytes (nbits w : Nat) : (tableBytes nbits w).length = Config.maxInstrLen := by
  have hlen : ∀ n v : Nat, (wordBytes v n).length = n := by
    intro n
    induction n with
    | zero => exact fun _ => rfl
    | succ n ih => exact fun v => congrArg (· + 1) (ih _)
  exact hlen _ _

section
variable (s : State) (bs : List Byte)

@[simp] theorem withFetchBytes_codeMode : (s.withFetchBytes bs).codeMode = .m64 := rfl
@[simp] theorem withFetchBytes_rip : (s.withFetchBytes bs).rip = s.rip := rfl
@[simp] theorem withFetchBytes_regions : (s.withFetchBytes bs).regions = s.regions := rfl
@[simp] theorem withFetchBytes_mem : (s.withFetchBytes bs).mem = memSetBytes (2 ^ 64) s.mem (0 + s.rip.toNat) bs := rfl

@[simp] theorem withFetchBytes_pcSpan : (s.withFetchBytes bs).pcSpan = 2 ^ 64 := rfl

theorem withFetchBytes_linear (k : Nat) :
    (s.withFetchBytes bs).linear .cs s.rip k = (0 + s.rip.toNat + k) % 2 ^ 64 := rfl

end

theorem inRegion_of_no_regions {s : State} (h : s.regions = []) (p : RegionKind → Bool) (a : Nat) : s.inRegion p a = false := by
  rw [State.inRegion, h, List.any_nil]

/-- In 64-bit mode, below the canonical boundary and without protected or device regions, the bytes placed at the program counter
are those that are fetched. -/
theorem fetchByte_withFetchBytes {s : State} {bs : List Byte} (hrip : s.rip.toNat + bs.length ≤ 2 ^ 47) (hreg : s.regions = [])
    {k : Nat} (hk : k < bs.length) : (s.withFetchBytes bs).fetchByte k = some bs[k] := by
  have hlin : (s.withFetchBytes bs).linear .cs s.rip k = s.rip.toNat + k := by
    rw [withFetchBytes_linear, Nat.zero_add, Nat.mod_eq_of_lt (by omega)]
  have hbyte : (s.withFetchBytes bs).byteAt (s.rip.toNat + k) = some bs[k] := by
    rw [State.byteAt, withFetchBytes_mem, Nat.zero_add]
    exact memGet_memSetBytes hk (by omega)
  have hcanon : (s.withFetchBytes bs).codeInSegment k = true := by
    rw [State.codeInSegment, if_pos (withFetchBytes_codeMode s bs), withFetchBytes_rip, canonical, Bool.or_eq_true,
      decide_eq_true_eq]
    omega
  have hregion := inRegion_of_no_regions ((withFetchBytes_regions s bs).trans hreg)
  rw [State.fetchByte, withFetchBytes_rip, hlin, hbyte, withFetchBytes_pcSpan]
  exact if_pos ⟨by omega, hcanon, .inr (hregion _ _), hregion _ _⟩

theorem fetchBytes_withFetchWord {s : State} {nbits w : Nat} (hrip : s.rip.toNat + 15 ≤ 2 ^ 47) (hreg : s.regions = []) :
    (s.withFetchWord nbits w).fetchBytes = tableBytes nbits w := by
  have hlen := length_tableBytes nbits w
  rw [State.fetchBytes, ← hlen]
  refine fetchFrom_eq fun j hj => ?_
  rw [Nat.zero_add]
  exact fetchByte_withFetchBytes (by rw [hlen]; exact hrip) hreg hj

/-- Settles O8: the bytes fetched are those of the word, and the word is read in 64-bit mode. -/
theorem placedWordRuns : Obligations.PlacedWordRuns := by
  intro s nbits w i hrip hreg hword
  unfold decodeTableWord at hword
  split at hword
  · next j rest hdec =>
    cases hword
    rw [← fetchBytes_withFetchWord (s := s) hrip hreg] at hdec
    exact step_of_decode_ok hdec
  · cases hword

/-! ### The two spellings of a VEX form -/

theorem effAddr_len {o : MemOp} (h : ∀ d : BitVec 32, o.form ≠ .ripRel d) (s : State) (n n' : Nat) :
    s.effAddr n o = s.effAddr n' o := by
  obtain ⟨g, asz, f⟩ := o
  cases f with
  | ripRel d => exact absurd rfl (h d)
  | base _ _ | sib _ _ _ _ | sibNoBase _ _ _ | abs32 _ | regs16 _ _ | abs16 _ => rfl

/-- The operand of a form without RIP-relative addressing does not depend on the length of the instruction. -/
theorem operand_len {src : RM 4} (h : ∀ o, src = .mem o → ∀ d : BitVec 32, o.form ≠ .ripRel d) (s : State) (n n' : Nat) :
    s.operandOf n src = s.operandOf n' src ∧ s.srcXmmVex n src = s.srcXmmVex n' src ∧ s.srcYmm n src = s.srcYmm n' src := by
  cases src with
  | reg r => exact ⟨rfl, rfl, rfl⟩
  | mem o =>
    have haddr := effAddr_len (h o rfl) s n n'
    simp only [State.operandOf, State.srcXmmVex, State.srcYmm, haddr, and_self]

theorem exec_vexInstr_128 (e : VexEnc) (d a : VecReg) (r : RM 4) (el : Elem) (s : State) :
    exec (vexInstr e d a r false el) s = stepVex128 el e d a r s := by
  cases el <;> rfl

theorem exec_vexInstr_256 (e : VexEnc) (d a : VecReg) (r : RM 4) (el : Elem) (s : State) :
    exec (vexInstr e d a r true el) s = stepVex256 el e d a r s := by
  cases el <;> rfl

theorem len_vexInstr (e : VexEnc) (d a : VecReg) (r : RM 4) (l : Bool) (el : Elem) :
    (vexInstr e d a r l el).len = vexLen e r := by
  cases l <;> cases el <;> rfl

theorem vexLen_three (ps : List Pfx) (w r x b v3 r' v3' : Bool) (src : RM 4) :
    vexLen ⟨ps, .three w r x b v3⟩ src = vexLen ⟨ps, .two r' v3'⟩ src + 1 := by
  simp only [vexLen, VexPrefix.len]
  omega

/-- Settles O46: the operands are those of the other spelling, and only the program counter depends on the length. -/
theorem vexSpellingsAgree : Obligations.VexSpellingsAgree := by
  intro s t ps w r v3 l el dst src1 src2 hrip hexec
  have hlen := vexLen_three ps w r false false v3 r v3 src2
  obtain ⟨hop, h128, h256⟩ :=
    operand_len hrip s (vexLen ⟨ps, .three w r false false v3⟩ src2) (vexLen ⟨ps, .two r v3⟩ src2)
  rw [len_vexInstr, ← hlen]
  cases l with
  | false =>
    rw [exec_vexInstr_128] at hexec ⊢
    obtain ⟨huse, b, hsrc, rfl⟩ := (stepVex128_next_iff ..).1 hexec
    exact (stepVex128_next_iff ..).2 ⟨hop ▸ huse, b, h128.trans hsrc, rfl⟩
  | true =>
    rw [exec_vexInstr_256] at hexec ⊢
    obtain ⟨huse, b, hsrc, rfl⟩ := (stepVex256_next_iff ..).1 hexec
    exact (stepVex256_next_iff ..).2 ⟨hop ▸ huse, b, h256.trans hsrc, rfl⟩

end Sys2Proof.Machine
end

section
/-! Interleave, the general law: the elements of IH64, IH128 and IH256 and what they depend on (40_interleave_functions.md R139,
R140, R145, R146). -/

namespace Sys2Proof.Machine

/-! ### Elements of a vector -/

theorem elemOf_getLsbD {n : Nat} (w : Nat) (v : BitVec n) (k t : Nat) :
    (elemOf w v k).getLsbD t = (decide (t < w) && v.getLsbD (w * k + t)) := by
  simp [elemOf]

theorem elemOf_getElem {n : Nat} (w : Nat) (v : BitVec n) (k t : Nat) (ht : t < w) :
    (elemOf w v k)[t] = v.getLsbD (w * k + t) := by
  simp [elemOf]

/-- Two vectors of `m` elements are equal where their elements are. -/
theorem eq_of_elemOf_eq {n w m : Nat} (hw : 0 < w) (hn : n = w * m) {u v : BitVec n}
    (h : ∀ k < m, elemOf w u k = elemOf w v k) : u = v := by
  refine BitVec.eq_of_getLsbD_eq fun j hj => ?_
  have hk : j / w < m := by rwa [Nat.div_lt_iff_lt_mul hw, Nat.mul_comm, ← hn]
  simpa [elemOf_getElem, Nat.mod_lt j hw, Nat.div_add_mod] using congrArg (·.getLsbD (j % w)) (h _ hk)

/-- An element of a slice that starts at an element boundary. -/
theorem elemOf_extractLsb' {n w p s l k : Nat} (v : BitVec n) (hs : s = w * p) (hk : w * (k + 1) ≤ l) :
    elemOf w (v.extractLsb' s l) k = elemOf w v (p + k) := by
  subst hs
  refine BitVec.eq_of_getLsbD_eq fun t ht => ?_
  have hlt : w * k + t < l := by
    rw [Nat.mul_add] at hk
    omega
  simp [elemOf_getLsbD, hlt, Nat.mul_add, Nat.add_assoc]

theorem elemOf_append_low {n l w k : Nat} (u : BitVec n) (v : BitVec l) (hk : w * (k + 1) ≤ l) :
    elemOf w (u ++ v) k = elemOf w v k := by
  refine BitVec.eq_of_getLsbD_eq fun t ht => ?_
  have hlt : w * k + t < l := by
    rw [Nat.mul_add] at hk
    omega
  simp [elemOf_getLsbD, BitVec.getLsbD_append, hlt]

theorem elemOf_append_high {n l w p : Nat} (u : BitVec n) (v : BitVec l) (hl : l = w * p) (k : Nat) :
    elemOf w (u ++ v) (p + k) = elemOf w u k := by
  subst hl
  refine BitVec.eq_of_getLsbD_eq fun t ht => ?_
  simp [elemOf_getLsbD, BitVec.getLsbD_append, Nat.mul_add, Nat.add_assoc]

/-- An element of double width is a pair of neighbouring elements. -/
theorem elemOf_double {n : Nat} (w : Nat) (v : BitVec n) (i : Nat) :
    elemOf (2 * w) v i =
      (elemOf w v (2 * i)).setWidth (2 * w) ||| (elemOf w v (2 * i + 1)).setWidth (2 * w) <<< w := by
  refine BitVec.eq_of_getLsbD_eq fun t ht => ?_
  have hcomm : 2 * w * i = w * (2 * i) := by ring
  rcases Nat.lt_or_ge t w with h | h
  · simp [elemOf_getElem, ht, h, hcomm]
  · have hsub : w * (2 * i + 1) + (t - w) = w * (2 * i) + t := by
      rw [Nat.mul_add]
      omega
    simp [elemOf_getElem, elemOf_getLsbD, ht, hcomm, Nat.not_lt.2 h, hsub, show t - w < w by omega]

theorem elemOf_zero (n w k : Nat) : elemOf w (0#n) k = 0#w := by
  simp [elemOf]

/-! ### Elements of an interleave -/

theorem elemOf_interleaveFrom {n w h m k : Nat} (hw : 0 < w) (hn : w * (2 * m) ≤ n) (hk : k < 2 * m) (a b : BitVec n) :
    elemOf w (interleaveFrom w h a b m) k = elemOf w (if k % 2 = 0 then a else b) (h + k / 2) := by
  refine BitVec.eq_of_getLsbD_eq fun t ht => ?_
  have hle : w * (k + 1) ≤ w * (2 * m) := Nat.mul_le_mul_left w hk
  have hlt : w * k + t < w * (2 * m) := by
    rw [Nat.mul_add] at hle
    omega
  have hdiv : (w * k + t) / w = k := by rw [Nat.mul_add_div hw, Nat.div_eq_of_lt ht, Nat.add_zero]
  have hmod : (w * k + t) % w = t := by rw [Nat.mul_add_mod, Nat.mod_eq_of_lt ht]
  rw [elemOf_getLsbD, interleaveFrom_getLsbD w h hw a b m _ (Nat.lt_of_lt_of_le hlt hn), hdiv, hmod, elemOf_getLsbD]
  simp [ht, hlt]

theorem elemOf_interleaveFrom_pair {n w h m i : Nat} (hw : 0 < w) (hn : w * (2 * m) ≤ n) (hi : i < m) (a b : BitVec n) :
    elemOf w (interleaveFrom w h a b m) (2 * i) = elemOf w a (h + i) ∧
      elemOf w (interleaveFrom w h a b m) (2 * i + 1) = elemOf w b (h + i) := by
  rw [elemOf_interleaveFrom hw hn (by omega), elemOf_interleaveFrom hw hn (by omega), if_pos (by omega), if_neg (by omega),
    show 2 * i / 2 = i by omega, show (2 * i + 1) / 2 = i by omega]
  exact ⟨rfl, rfl⟩

/-- An interleave reads nothing but the elements that it counts. -/
theorem interleaveFrom_congr {n w h m : Nat} {a a' b b' : BitVec n} (ha : ∀ i < m, elemOf w a (h + i) = elemOf w a' (h + i))
    (hb : ∀ i < m, elemOf w b (h + i) = elemOf w b' (h + i)) : interleaveFrom w h a b m = interleaveFrom w h a' b' m := by
  induction m with
  | zero => rfl
  | succ m ih =>
    rw [interleaveFrom, interleaveFrom, ha m m.lt_succ_self, hb m m.lt_succ_self,
      ih (fun i hi => ha i (Nat.lt_succ_of_lt hi)) (fun i hi => hb i (Nat.lt_succ_of_lt hi))]

/-- Vectors with equal slices have equal elements within the slice. -/
theorem elemOf_eq_of_slice_eq {n w h m : Nat} {a a' : BitVec n}
    (ha : a.extractLsb' (w * h) (w * m) = a'.extractLsb' (w * h) (w * m)) (i : Nat) (hi : i < m) :
    elemOf w a (h + i) = elemOf w a' (h + i) := by
  have hle : w * (i + 1) ≤ w * m := Nat.mul_le_mul_left w hi
  rw [← elemOf_extractLsb' a rfl hle, ha, elemOf_extractLsb' a' rfl hle]

/-! ### IH128 and IH64 -/

theorem pos_of_dvd_64 {w : Nat} (hw : w ∣ 64) : 0 < w := Nat.pos_of_dvd_of_pos hw (by decide)

theorem pos_of_dvd_32 {w : Nat} (hw : w ∣ 32) : 0 < w := Nat.pos_of_dvd_of_pos hw (by decide)

/-- The elements of both halves fill a vector of 128 bits. -/
theorem elems_fill_128 {w : Nat} (hw : w ∣ 64) : w * (2 * (64 / w)) = 128 := by
  rw [Nat.mul_left_comm, Nat.mul_div_cancel' hw]

/-- The elements of both halves fill a vector of 64 bits. -/
theorem elems_fill_64 {w : Nat} (hw : w ∣ 32) : w * (2 * (32 / w)) = 64 := by
  rw [Nat.mul_left_comm, Nat.mul_div_cancel' hw]

theorem elemOf_ih128_pair {w i : Nat} (hw : w ∣ 64) (hi : i < 64 / w) (a b : BitVec 128) :
    elemOf w (ih128 w a b) (2 * i) = elemOf w a (64 / w + i) ∧
      elemOf w (ih128 w a b) (2 * i + 1) = elemOf w b (64 / w + i) :=
  elemOf_interleaveFrom_pair (pos_of_dvd_64 hw) (elems_fill_128 hw).le hi a b

theorem elemOf_ih64_pair {w i : Nat} (hw : w ∣ 32) (hi : i < 32 / w) (a b : BitVec 64) :
    elemOf w (ih64 w a b) (2 * i) = elemOf w a (32 / w + i) ∧
      elemOf w (ih64 w a b) (2 * i + 1) = elemOf w b (32 / w + i) :=
  elemOf_interleaveFrom_pair (pos_of_dvd_32 hw) (elems_fill_64 hw).le hi a b

theorem ih128_congr {w : Nat} (hw : w ∣ 64) {a a' b b' : BitVec 128} (ha : a.extractLsb' 64 64 = a'.extractLsb' 64 64)
    (hb : b.extractLsb' 64 64 = b'.extractLsb' 64 64) : ih128 w a b = ih128 w a' b' := by
  rw [← Nat.mul_div_cancel' hw] at ha hb
  exact interleaveFrom_congr (elemOf_eq_of_slice_eq ha) (elemOf_eq_of_slice_eq hb)

theorem ih64_congr {w : Nat} (hw : w ∣ 32) {a a' b b' : BitVec 64} (ha : a.extractLsb' 32 32 = a'.extractLsb' 32 32)
    (hb : b.extractLsb' 32 32 = b'.extractLsb' 32 32) : ih64 w a b = ih64 w a' b' := by
  rw [← Nat.mul_div_cancel' hw] at ha hb
  exact interleaveFrom_congr (elemOf_eq_of_slice_eq ha) (elemOf_eq_of_slice_eq hb)

theorem laneHigh_slice (v : BitVec 256) : (laneHigh v).extractLsb' 64 64 = v.extractLsb' 192 64 := by
  refine BitVec.eq_of_getLsbD_eq fun t ht => ?_
  simp [laneHigh, ht, show 64 + t < 128 by omega, ← Nat.add_assoc]

theorem laneLow_slice (v : BitVec 256) : (laneLow v).extractLsb' 64 64 = v.extractLsb' 64 64 := by
  rw [laneLow, BitVec.extractLsb'_extractLsb'_of_le (by decide)]

theorem ih256_congr {w : Nat} (hw : w ∣ 64) {a a' b b' : BitVec 256} (ha : a.extractLsb' 64 64 = a'.extractLsb' 64 64)
    (ha' : a.extractLsb' 192 64 = a'.extractLsb' 192 64) (hb : b.extractLsb' 64 64 = b'.extractLsb' 64 64)
    (hb' : b.extractLsb' 192 64 = b'.extractLsb' 192 64) : ih256 w a b = ih256 w a' b' := by
  rw [← laneLow_slice, ← laneLow_slice a'] at ha
  rw [← laneHigh_slice, ← laneHigh_slice a'] at ha'
  rw [← laneLow_slice, ← laneLow_slice b'] at hb
  rw [← laneHigh_slice, ← laneHigh_slice b'] at hb'
  rw [ih256, ih256, ih128_congr hw ha' hb', ih128_congr hw ha hb]

/-- Bit `j` of IH128 is a copy of one bit, whose number and source depend on `w` and `j` only (R139). -/
theorem ih128_getLsbD {w j : Nat} (hw : w ∣ 64) (hj : j < 128) (a b : BitVec 128) :
    (ih128 w a b).getLsbD j = (if j / w % 2 = 0 then a else b).getLsbD (w * (64 / w + j / w / 2) + j % w) := by
  rw [ih128, interleaveFrom_getLsbD w _ (pos_of_dvd_64 hw) a b _ j hj, elems_fill_128 hw]
  simp [hj]

theorem copied_bit_lt {w j : Nat} (hw : w ∣ 64) (hj : j < 128) : w * (64 / w + j / w / 2) + j % w < 128 := by
  have hw0 := pos_of_dvd_64 hw
  have hlane := elems_fill_128 hw
  have hq : j / w < 2 * (64 / w) := by rwa [Nat.div_lt_iff_lt_mul hw0, Nat.mul_comm, hlane]
  calc w * (64 / w + j / w / 2) + j % w
      < w * (64 / w + j / w / 2) + w := Nat.add_lt_add_left (Nat.mod_lt j hw0) _
    _ = w * (64 / w + j / w / 2 + 1) := (Nat.mul_succ ..).symm
    _ ≤ w * (2 * (64 / w)) := Nat.mul_le_mul_left w (by omega)
    _ = 128 := hlane

/-- At width 64 there is one pair of elements. -/
theorem ih128_64 (a b : BitVec 128) : ih128 64 a b = b.extractLsb' 64 64 ++ a.extractLsb' 64 64 := by
  obtain ⟨heven, hodd⟩ := elemOf_ih128_pair (w := 64) (i := 0) (by decide) (by decide) a b
  refine eq_of_elemOf_eq (w := 64) (m := 2) (by decide) rfl fun k hk => ?_
  match k with
  | 0 => rw [heven, elemOf_append_low _ _ (by decide)]; simp [elemOf]
  | 1 => rw [hodd, elemOf_append_high (p := 1) _ _ rfl 0]; simp [elemOf]

theorem ih256_64 (a b : BitVec 256) :
    ih256 64 a b = b.extractLsb' 192 64 ++ a.extractLsb' 192 64 ++ b.extractLsb' 64 64 ++ a.extractLsb' 64 64 := by
  rw [ih256, ih128_64, ih128_64, laneHigh_slice, laneHigh_slice, laneLow_slice, laneLow_slice,
    BitVec.append_assoc (x₁ := b.extractLsb' 192 64 ++ a.extractLsb' 192 64), BitVec.cast_eq]

theorem elemOf_laneLow {w k : Nat} (hw : w ∣ 64) (hk : k < 2 * (64 / w)) (v : BitVec 256) :
    elemOf w (laneLow v) k = elemOf w v k := by
  have hin : w * (k + 1) ≤ 128 := elems_fill_128 hw ▸ Nat.mul_le_mul_left w hk
  rw [laneLow, elemOf_extractLsb' v (Nat.mul_zero w).symm hin, Nat.zero_add]

theorem elemOf_laneHigh {w k : Nat} (hw : w ∣ 64) (hk : k < 2 * (64 / w)) (v : BitVec 256) :
    elemOf w (laneHigh v) k = elemOf w v (2 * (64 / w) + k) :=
  elemOf_extractLsb' v (elems_fill_128 hw).symm (elems_fill_128 hw ▸ Nat.mul_le_mul_left w hk)

theorem elemOf_ih256_low {w k : Nat} (hw : w ∣ 64) (hk : k < 2 * (64 / w)) (a b : BitVec 256) :
    elemOf w (ih256 w a b) k = elemOf w (if k % 2 = 0 then a else b) (64 / w + k / 2) := by
  have hlane := elems_fill_128 hw
  rw [ih256, elemOf_append_low _ _ (hlane ▸ Nat.mul_le_mul_left w hk), ih128,
    elemOf_interleaveFrom (pos_of_dvd_64 hw) hlane.le hk]
  split <;> exact elemOf_laneLow hw (by omega) _

theorem elemOf_ih256_high {w k : Nat} (hw : w ∣ 64) (hk : k < 2 * (64 / w)) (a b : BitVec 256) :
    elemOf w (ih256 w a b) (2 * (64 / w) + k) =
      elemOf w (if k % 2 = 0 then a else b) (2 * (64 / w) + 64 / w + k / 2) := by
  have hlane := elems_fill_128 hw
  rw [ih256, elemOf_append_high _ _ hlane.symm, ih128, elemOf_interleaveFrom (pos_of_dvd_64 hw) hlane.le hk, Nat.add_assoc]
  split <;> exact elemOf_laneHigh hw (by omega) _

/-! ### The obligations about the law -/

theorem dvd_64_of_width {w : Nat} (hw : w = 8 ∨ w = 16 ∨ w = 32 ∨ w = 64) : w ∣ 64 := by
  rcases hw with rfl | rfl | rfl | rfl <;> decide

theorem dvd_32_of_width {w : Nat} (hw : w = 8 ∨ w = 16 ∨ w = 32) : w ∣ 32 := by
  rcases hw with rfl | rfl | rfl <;> decide

/-- Settles O49, clause by clause; the bit that bit `j` copies is that of `ih128_getLsbD`. -/
theorem interleaveLaw : Obligations.InterleaveLaw := by
  intro w hwidth
  have hw := dvd_64_of_width hwidth
  refine ⟨fun a b i hi => elemOf_ih128_pair hw hi a b, fun a b => rfl, fun a a' b b' => ih128_congr hw,
    fun a a' b b' => ih256_congr hw, fun j hj => ⟨w * (64 / w + j / w / 2) + j % w, ?_, ?_⟩⟩
  · exact copied_bit_lt hw hj
  · rcases Nat.mod_two_eq_zero_or_one (j / w) with h | h
    · exact .inl fun a b => by rw [ih128_getLsbD hw hj, if_pos h]
    · exact .inr fun a b => by rw [ih128_getLsbD hw hj, if_neg (by omega)]

/-- Settles O50. The 128-bit operation does not read bits 63:32 of its sources, and the 64-bit operation on the low half does: one
bit there tells them apart. -/
theorem interleaveLaw64 : Obligations.InterleaveLaw64 := by
  intro w hwidth
  have hw := dvd_32_of_width hwidth
  refine ⟨fun a b i hi => elemOf_ih64_pair hw hi a b, fun a a' b b' => ih64_congr hw, 0x100000000#128, 0#128, ?_⟩
  rcases hwidth with rfl | rfl | rfl <;> decide

/-- Settles O52: an element of double width is a pair of elements, of which the one from the zeros is 0. -/
theorem zeroExtension : Obligations.ZeroExtension := by
  refine ⟨fun w hwidth a i hi => ?_, fun w hwidth a i hi => ?_, fun a => ?_⟩
  · have hw := dvd_64_of_width hwidth
    obtain ⟨heven, hodd⟩ := elemOf_ih128_pair hw hi a 0
    obtain ⟨heven', hodd'⟩ := elemOf_ih128_pair hw hi 0 a
    rw [elemOf_double, heven, hodd, elemOf_double, heven', hodd']
    simp [elemOf_zero]
  · obtain ⟨heven, hodd⟩ := elemOf_ih64_pair (dvd_32_of_width hwidth) hi a 0
    rw [elemOf_double, heven, hodd]
    simp [elemOf_zero]
  · rw [ih128_64, BitVec.setWidth_eq_append (by decide)]
    simp

/-- Settles O53: the two elements of a pair come from the same place of the same vector. -/
theorem sameVectorTwice : Obligations.SameVectorTwice :=
  ⟨fun _ hwidth a _ hi => elemOf_ih128_pair (dvd_64_of_width hwidth) hi a a,
    fun _ hwidth a _ hi => elemOf_ih64_pair (dvd_32_of_width hwidth) hi a a, fun a => ih128_64 a a⟩

end Sys2Proof.Machine
end

section
/-! Interleave, the page's lines (R131 to R138, R141): each function and block is one schematic list of lines at its width, and its
run is computed once, by induction on the number of pairs of lines. -/

namespace Sys2Proof.Machine

/-! ### The page's lines -/

/-- The line of the page that copies element `q` of a source to element `p` of the result. -/
def elemLine (w p : Nat) (src : LineSrc) (q : Nat) : Line := ⟨w * p + (w - 1), w * p, src, w * q + (w - 1), w * q⟩

/-- The lines that interleave `m` pairs of elements of width `w`, the result from element `c` on and the sources from element
`c + h` on. -/
def interleaveLines (w c h : Nat) : Nat → List Line
  | 0 => []
  | i + 1 =>
    interleaveLines w c h i ++
      [elemLine w (c + 2 * i) .src1 (c + h + i), elemLine w (c + 2 * i + 1) .src2 (c + h + i)]

/-- The lines of a 64-bit block at width `w` (R141). -/
def lines64 (w : Nat) : List Line := interleaveLines w 0 (32 / w) (32 / w)

/-- The lines of a 128-bit function or block at width `w` (R131, R133, R135, R137, R141). -/
def lines128 (w : Nat) : List Line := interleaveLines w 0 (64 / w) (64 / w)

/-- The lines of a 256-bit function at width `w`: those of the 128-bit function, then the same for the high lane (R132, R134,
R136, R138). -/
def lines256 (w : Nat) : List Line := lines128 w ++ interleaveLines w (2 * (64 / w)) (64 / w) (64 / w)

theorem interleaveHighBytes_eq : interleaveHighBytes = lines128 8 := rfl
theorem interleaveHighWords_eq : interleaveHighWords = lines128 16 := rfl
theorem interleaveHighDwords_eq : interleaveHighDwords = lines128 32 := rfl
theorem interleaveHighQwords_eq : interleaveHighQwords = lines128 64 := rfl
theorem interleaveHighBytes256b_eq : interleaveHighBytes256b = lines256 8 := rfl
theorem interleaveHighWords256b_eq : interleaveHighWords256b = lines256 16 := rfl
theorem interleaveHighDwords256b_eq : interleaveHighDwords256b = lines256 32 := rfl
theorem interleaveHighQwords256b_eq : interleaveHighQwords256b = lines256 64 := rfl
theorem punpckhbw64Lines_eq : punpckhbw64Lines = lines64 8 := rfl
theorem punpckhwd64Lines_eq : punpckhwd64Lines = lines64 16 := rfl
theorem punpckhdq64Lines_eq : punpckhdq64Lines = lines64 32 := rfl
theorem punpckhbw128Lines_eq : punpckhbw128Lines = lines128 8 := rfl
theorem punpckhwd128Lines_eq : punpckhwd128Lines = lines128 16 := rfl
theorem punpckhdq128Lines_eq : punpckhdq128Lines = lines128 32 := rfl
theorem punpckhqdq128Lines_eq : punpckhqdq128Lines = lines128 64 := rfl

/-! ### Executing a line -/

theorem setSlice_getLsbD {n : Nat} (v x : BitVec n) (lo w j : Nat) (hj : j < n) :
    (setSlice v lo w x).getLsbD j = if lo ≤ j ∧ j < lo + w then x.getLsbD (j - lo) else v.getLsbD j := by
  rcases Nat.lt_or_ge j lo with h | h
  · simp [setSlice, hj, h, Nat.not_le.2 h]
  · by_cases h2 : j < lo + w
    · simp [setSlice, hj, h, h2, Nat.not_lt.2 h, show j - lo < n by omega, show j - lo < w by omega]
    · simp [setSlice, hj, h, h2, Nat.not_lt.2 h, show j - lo < n by omega, show ¬ j - lo < w by omega]

/-- Setting an element changes that element only. -/
theorem elemOf_setSlice {n w p : Nat} (hp : w * (p + 1) ≤ n) (v x : BitVec n) (k : Nat) :
    elemOf w (setSlice v (w * p) w x) k = if k = p then elemOf w x 0 else elemOf w v k := by
  refine BitVec.eq_of_getLsbD_eq fun t ht => ?_
  have hslice : w * p ≤ w * k + t ∧ w * k + t < w * p + w ↔ k = p := by
    constructor
    · rintro ⟨hle, hlt⟩
      have hkp : k < p + 1 := Nat.lt_of_mul_lt_mul_left (a := w) (by rw [Nat.mul_succ]; omega)
      have hpk : p < k + 1 := Nat.lt_of_mul_lt_mul_left (a := w) (by rw [Nat.mul_succ]; omega)
      omega
    · rintro rfl
      omega
  rw [Nat.mul_succ] at hp
  rcases Nat.lt_or_ge (w * k + t) n with hj | hj
  · rw [elemOf_getLsbD, setSlice_getLsbD _ _ _ _ _ hj]
    by_cases hk : k = p
    · subst hk
      simp [elemOf_getElem, ht]
    · simp [elemOf_getElem, ht, hslice, hk]
  · have hk : k ≠ p := by
      rintro rfl
      omega
    simp [elemOf_getElem, ht, hk, BitVec.getLsbD_of_ge _ _ hj]

theorem elemOf_runLine {n w p : Nat} (hw : 0 < w) (hp : w * (p + 1) ≤ n) (a b d : BitVec n) (src : LineSrc) (q k : Nat) :
    elemOf w (runLine a b d (elemLine w p src q)) k =
      if k = p then elemOf w ((elemLine w p src q).operand a b) q else elemOf w d k := by
  have hwidth : w * p + (w - 1) - w * p + 1 = w := by omega
  have hread : ∀ v : BitVec n, elemOf w (v >>> (w * q)) 0 = elemOf w v q := fun v =>
    BitVec.eq_of_getLsbD_eq fun t ht => by simp [elemOf_getElem, ht]
  simp only [runLine, elemLine, hwidth, elemOf_setSlice hp, hread]

/-! ### Executing the lines -/

/-- Lines executed in order, where each reads `f` of the result so far for SRC1 and `g` of it for SRC2. -/
def runReading {n : Nat} (f g : BitVec n → BitVec n) (dest : BitVec n) (ls : List Line) : BitVec n :=
  ls.foldl (fun d l => runLine (f d) (g d) d l) dest

theorem runFunction_eq {n : Nat} (a b dest : BitVec n) (ls : List Line) :
    runFunction a b dest ls = runReading (fun _ => a) (fun _ => b) dest ls := rfl

theorem runInPlace_eq {n : Nat} (src dest : BitVec n) (ls : List Line) :
    runInPlace src dest ls = runReading id (fun _ => src) dest ls := rfl

theorem runInPlaceSame_eq {n : Nat} (dest : BitVec n) (ls : List Line) :
    runInPlaceSame dest ls = runReading id id dest ls := rfl

theorem runReading_append {n : Nat} (f g : BitVec n → BitVec n) (dest : BitVec n) (ls ls' : List Line) :
    runReading f g dest (ls ++ ls') = runReading f g (runReading f g dest ls) ls' := List.foldl_append

/-- `f d` reads as `a` each element that `d` still has from `dest`: `f` reads a register of its own, or the result so far where
`a = dest`. -/
def ReadsAs {n : Nat} (w : Nat) (dest : BitVec n) (f : BitVec n → BitVec n) (a : BitVec n) : Prop :=
  ∀ d q, elemOf w d q = elemOf w dest q → elemOf w (f d) q = elemOf w a q

theorem readsAs_const {n w : Nat} {dest a : BitVec n} : ReadsAs w dest (fun _ => a) a := fun _ _ _ => rfl

theorem readsAs_id {n w : Nat} {dest : BitVec n} : ReadsAs w dest id dest := fun _ _ h => h

/-- A pair of lines that reads an element `q` which still stands, and does not set it with its first line. -/
theorem elemOf_runReading_pair {n w p q : Nat} (hw : 0 < w) (hp : w * (p + 1 + 1) ≤ n) (hq : q ≠ p) {f g : BitVec n → BitVec n}
    {dest a b r : BitVec n} (hf : ReadsAs w dest f a) (hg : ReadsAs w dest g b) (hr : elemOf w r q = elemOf w dest q) (k : Nat) :
    elemOf w (runReading f g r [elemLine w p .src1 q, elemLine w (p + 1) .src2 q]) k =
      if k = p + 1 then elemOf w b q else if k = p then elemOf w a q else elemOf w r k := by
  have hfirst : ∀ k, elemOf w (runLine (f r) (g r) r (elemLine w p .src1 q)) k =
      if k = p then elemOf w a q else elemOf w r k := fun k => by
    rw [elemOf_runLine hw ((Nat.mul_le_mul_left w (by omega)).trans hp), ← hf r q hr]
    rfl
  simp only [runReading, List.foldl_cons, List.foldl_nil]
  generalize runLine (f r) (g r) r (elemLine w p .src1 q) = d at hfirst ⊢
  have hd : elemOf w d q = elemOf w dest q := by rw [hfirst, if_neg hq, hr]
  rw [elemOf_runLine hw hp, ← hfirst, ← hg d q hd]
  rfl

/-- The run of a block: the elements of the result that it sets are those of the sources by turns, and the others are kept. No line
reads an element that an earlier line has set, so it makes no difference whether `f` and `g` read the result so far (R141). -/
theorem elemOf_runReading {n w c h m : Nat} (hw : 0 < w) (hm : m ≤ h) (hn : w * (c + 2 * m) ≤ n) {f g : BitVec n → BitVec n}
    {dest a b : BitVec n} (hf : ReadsAs w dest f a) (hg : ReadsAs w dest g b) (k : Nat) :
    elemOf w (runReading f g dest (interleaveLines w c h m)) k =
      if c ≤ k ∧ k < c + 2 * m then elemOf w (if (k - c) % 2 = 0 then a else b) (c + h + (k - c) / 2)
      else elemOf w dest k := by
  induction m generalizing k with
  | zero => simp [runReading, interleaveLines, show ¬ (c ≤ k ∧ k < c) by omega]
  | succ m ih =>
    have ih := ih (by omega) ((Nat.mul_le_mul_left w (by omega)).trans hn)
    rw [interleaveLines, runReading_append,
      elemOf_runReading_pair (p := c + 2 * m) hw hn (by omega) hf hg (by rw [ih, if_neg (by omega)]), ih]
    rcases Nat.lt_trichotomy k (c + 2 * m) with hk | rfl | hk
    · simp [show k ≠ c + 2 * m + 1 by omega, show k ≠ c + 2 * m by omega, hk, show k < c + 2 * (m + 1) by omega]
    · simp
    · by_cases hk' : k = c + 2 * m + 1
      · subst hk'
        simp [Nat.add_assoc, show (2 * m + 1) / 2 = m by omega, show 2 * m + 1 < 2 * (m + 1) by omega]
      · simp [hk', show k ≠ c + 2 * m by omega, show ¬ k < c + 2 * m by omega, show ¬ k < c + 2 * (m + 1) by omega]

/-- A block that fills the result is the interleave, whatever the result held before. -/
theorem runReading_eq_interleaveFrom {n w h : Nat} (hw : 0 < w) (hn : n = w * (2 * h)) {f g : BitVec n → BitVec n}
    {dest a b : BitVec n} (hf : ReadsAs w dest f a) (hg : ReadsAs w dest g b) :
    runReading f g dest (interleaveLines w 0 h h) = interleaveFrom w h a b h := by
  refine eq_of_elemOf_eq hw hn fun k hk => ?_
  rw [elemOf_runReading hw le_rfl (by rw [hn, Nat.zero_add]) hf hg, elemOf_interleaveFrom hw hn.ge hk]
  simp [hk]

theorem runReading_lines64 {w : Nat} (hw : w ∣ 32) {f g : BitVec 64 → BitVec 64} {dest a b : BitVec 64}
    (hf : ReadsAs w dest f a) (hg : ReadsAs w dest g b) : runReading f g dest (lines64 w) = ih64 w a b :=
  runReading_eq_interleaveFrom (pos_of_dvd_32 hw) (elems_fill_64 hw).symm hf hg

theorem runReading_lines128 {w : Nat} (hw : w ∣ 64) {f g : BitVec 128 → BitVec 128} {dest a b : BitVec 128}
    (hf : ReadsAs w dest f a) (hg : ReadsAs w dest g b) : runReading f g dest (lines128 w) = ih128 w a b :=
  runReading_eq_interleaveFrom (pos_of_dvd_64 hw) (elems_fill_128 hw).symm hf hg

theorem runFunction_lines128 {w : Nat} (hw : w ∣ 64) (a b dest : BitVec 128) :
    runFunction a b dest (lines128 w) = ih128 w a b :=
  (runFunction_eq ..).trans (runReading_lines128 hw readsAs_const readsAs_const)

theorem runFunction_lines256 {w : Nat} (hw : w ∣ 64) (a b dest : BitVec 256) :
    runFunction a b dest (lines256 w) = ih256 w a b := by
  have hw0 := pos_of_dvd_64 hw
  have hlane := elems_fill_128 hw
  have hlow : w * (0 + 2 * (64 / w)) ≤ 256 := by rw [Nat.zero_add, hlane]; decide
  have hsize : 256 = w * (2 * (64 / w) + 2 * (64 / w)) := by rw [Nat.mul_add, hlane]
  refine eq_of_elemOf_eq hw0 hsize fun k hk => ?_
  rw [runFunction_eq, lines256, runReading_append, elemOf_runReading hw0 le_rfl hsize.ge readsAs_const readsAs_const, lines128,
    elemOf_runReading hw0 le_rfl hlow readsAs_const readsAs_const]
  rcases Nat.lt_or_ge k (2 * (64 / w)) with h | h
  · rw [elemOf_ih256_low hw h, if_neg (by omega), if_pos (by omega), Nat.zero_add, Nat.sub_zero]
  · obtain ⟨j, rfl⟩ := Nat.exists_eq_add_of_le h
    rw [elemOf_ih256_high hw (by omega), if_pos (by omega), Nat.add_sub_cancel_left]

theorem runInPlace_lines64 {w : Nat} (hw : w ∣ 32) (d v : BitVec 64) : runInPlace v d (lines64 w) = ih64 w d v :=
  (runInPlace_eq ..).trans (runReading_lines64 hw readsAs_id readsAs_const)

theorem runInPlaceSame_lines64 {w : Nat} (hw : w ∣ 32) (d : BitVec 64) : runInPlaceSame d (lines64 w) = ih64 w d d :=
  (runInPlaceSame_eq ..).trans (runReading_lines64 hw readsAs_id readsAs_id)

theorem runInPlace_lines128 {w : Nat} (hw : w ∣ 64) (d v : BitVec 128) : runInPlace v d (lines128 w) = ih128 w d v :=
  (runInPlace_eq ..).trans (runReading_lines128 hw readsAs_id readsAs_const)

theorem runInPlaceSame_lines128 {w : Nat} (hw : w ∣ 64) (d : BitVec 128) : runInPlaceSame d (lines128 w) = ih128 w d d :=
  (runInPlaceSame_eq ..).trans (runReading_lines128 hw readsAs_id readsAs_id)

/-! ### The obligations about the page's lines -/

/-- Settles O47: each function's lines are the block of its width, whose run is the interleave. -/
theorem pageFunctions : Obligations.PageFunctions := by
  refine ⟨fun a b dest => ?_, fun a b dest => ?_⟩
  · rw [interleaveHighBytes_eq, interleaveHighWords_eq, interleaveHighDwords_eq, interleaveHighQwords_eq]
    exact ⟨runFunction_lines128 (by decide) .., runFunction_lines128 (by decide) .., runFunction_lines128 (by decide) ..,
      runFunction_lines128 (by decide) ..⟩
  · rw [interleaveHighBytes256b_eq, interleaveHighWords256b_eq, interleaveHighDwords256b_eq, interleaveHighQwords256b_eq]
    exact ⟨runFunction_lines256 (by decide) .., runFunction_lines256 (by decide) .., runFunction_lines256 (by decide) ..,
      runFunction_lines256 (by decide) ..⟩

/-- Settles O48: the quadword functions are the interleaves at width 64, which have one pair of elements to a lane. -/
theorem qwordFunctions : Obligations.QwordFunctions := by
  refine ⟨fun a b dest => ?_, fun a b dest => ?_⟩
  · rw [interleaveHighQwords_eq, runFunction_lines128 (by decide), ih128_64]
  · rw [interleaveHighQwords256b_eq, runFunction_lines256 (by decide), ih256_64]

/-- Settles O51: each block's lines are the block of its width, whose run is the interleave also where the sources are read from the
result so far. -/
theorem inPlaceBlocks : Obligations.InPlaceBlocks := by
  refine ⟨fun d v => ?_, fun d v => ?_⟩
  · rw [punpckhbw64Lines_eq, punpckhwd64Lines_eq, punpckhdq64Lines_eq]
    exact ⟨runInPlace_lines64 (by decide) .., runInPlace_lines64 (by decide) .., runInPlace_lines64 (by decide) ..,
      runInPlaceSame_lines64 (by decide) _, runInPlaceSame_lines64 (by decide) _, runInPlaceSame_lines64 (by decide) _⟩
  · rw [punpckhbw128Lines_eq, punpckhwd128Lines_eq, punpckhdq128Lines_eq, punpckhqdq128Lines_eq]
    exact ⟨runInPlace_lines128 (by decide) .., runInPlace_lines128 (by decide) .., runInPlace_lines128 (by decide) ..,
      runInPlace_lines128 (by decide) .., runInPlaceSame_lines128 (by decide) _, runInPlaceSame_lines128 (by decide) _,
      runInPlaceSame_lines128 (by decide) _, runInPlaceSame_lines128 (by decide) _⟩

end Sys2Proof.Machine
end

section
/-! PROOFS. MmxForms: the interleave as the concatenations that the rules write out, the state after an MMX form, the read of a
memory operand whose checks pass, and from these the settling of O26 and O27. -/

namespace Sys2Proof.Machine

/-! ### Results written out as concatenations -/

theorem elemOf_self {w : Nat} (e : BitVec w) : elemOf w e 0 = e := by
  rw [elemOf, Nat.mul_zero, BitVec.extractLsb'_eq_self]

theorem elemOf_append_zero {n w : Nat} (u : BitVec n) (e : BitVec w) : elemOf w (u ++ e) 0 = e := by
  rw [elemOf_append_low u e (Nat.mul_one w).le, elemOf_self]

theorem elemOf_append_succ {n w : Nat} (u : BitVec n) (e : BitVec w) (k : Nat) :
    elemOf w (u ++ e) (k + 1) = elemOf w u k := by
  rw [Nat.add_comm k 1, elemOf_append_high u e (Nat.mul_one w).symm]

/-- IH64 is the vector whose elements are by turns the high elements of its sources (40_interleave_functions.md R140). -/
theorem ih64_eq_of_pairs {w : Nat} (hw : w ∣ 32) {a b v : BitVec 64}
    (h : ∀ i < 32 / w, elemOf w v (2 * i) = elemOf w a (32 / w + i) ∧ elemOf w v (2 * i + 1) = elemOf w b (32 / w + i)) :
    ih64 w a b = v := by
  refine eq_of_elemOf_eq (pos_of_dvd_32 hw) (elems_fill_64 hw).symm fun k hk => ?_
  obtain ⟨heven, hodd⟩ := elemOf_ih64_pair hw (show k / 2 < 32 / w by omega) a b
  obtain ⟨heven', hodd'⟩ := h (k / 2) (by omega)
  rcases Nat.mod_two_eq_zero_or_one k with hk2 | hk2
  · rw [show k = 2 * (k / 2) by omega, heven, heven']
  · rw [show k = 2 * (k / 2) + 1 by omega, hodd, hodd']

theorem ih64_8 (a b : BitVec 64) : ih64 8 a b = highBytes64 a b := by
  refine ih64_eq_of_pairs (by decide) fun i hi => ?_
  match i with
  | 0 | 1 | 2 | 3 =>
    simp only [highBytes64, Nat.reduceMul, elemOf_append_succ, elemOf_append_zero, elemOf_self]
    exact ⟨rfl, rfl⟩

theorem ih64_16 (a b : BitVec 64) : ih64 16 a b = highWords64 a b := by
  refine ih64_eq_of_pairs (by decide) fun i hi => ?_
  match i with
  | 0 | 1 =>
    simp only [highWords64, Nat.reduceMul, elemOf_append_succ, elemOf_append_zero, elemOf_self]
    exact ⟨rfl, rfl⟩

theorem ih64_32 (a b : BitVec 64) : ih64 32 a b = highDwords64 a b := by
  refine ih64_eq_of_pairs (by decide) fun i hi => ?_
  match i with
  | 0 =>
    simp only [highDwords64, Nat.reduceMul, elemOf_append_succ, elemOf_append_zero, elemOf_self]
    exact ⟨rfl, rfl⟩

/-! ### The state after an MMX form -/

@[simp] theorem readMm_mmxSideEffects (s : State) (i r : MmReg) : (s.mmxSideEffects i).readMm r = s.readMm r := rfl

theorem CompletedBy.ymm_eq_of_mmx {i : Instr} {s t : State} (h : CompletedBy i s t) (hc : i.cls = .mmx) : t.ymm = s.ymm := by
  cases h with
  | mmx => rfl
  | ymm d v hcls _ _ _ _ => exact absurd hc hcls

/-- What an MMX form leaves, but for the value of its result (10_state.md R24, R32, R34). -/
theorem CompletedBy.mmxDone {i : Instr} {s t : State} {d : MmReg} (h : CompletedBy i s t) (hc : i.cls = .mmx)
    (hd : mmDst i = some d) : MmxDone s t d (t.readMm d) i.len := by
  obtain ⟨htos, htag, hstatus, hhi⟩ := h.x87_fields hc
  have hne : ∀ r : MmReg, r ≠ d → mmDst i ≠ some r := fun r hr e => hr (Option.some.inj (e.symm.trans hd))
  exact ⟨rfl, fun r hr => h.readMm_of_ne (hne r hr), htos, hstatus, htag, hhi d hd, fun r hr => h.readX87Hi_of_ne (hne r hr),
    h.ymm_eq_of_mmx hc, h.sameControl, fun a => congrArg (memGet · a) h.mem_eq, h.advanced⟩

theorem exec_mmxInstr {e : LegacyEnc} {dst : MmReg} {src : RM 3} {el : Elem} {i : Instr}
    (hi : mmxInstr e dst src el = some i) (s : State) :
    exec i s = stepMmx el e dst src s ∧ i.cls = .mmx ∧ mmDst i = some dst ∧ i.len = legacyLen e src := by
  cases el with
  | byte | word | dword =>
    cases hi
    exact ⟨rfl, rfl, rfl, rfl⟩
  | qword => cases hi

/-- A usable MMX form whose source can be read completes (60_exceptions.md R211, 41_mmx_64bit.md R153). -/
theorem exec_mmxInstr_done {e : LegacyEnc} {dst : MmReg} {src : RM 3} {el : Elem} {i : Instr} {s : State} {b : BitVec 64}
    (hi : mmxInstr e dst src el = some i) (huse : FormUsable .mmx el s (s.operandOf (legacyLen e src) src))
    (hsrc : s.srcMm (legacyLen e src) src = .ok b) :
    ∃ t, exec i s = .next t ∧ MmxDone s t dst (ih64 el.width (s.readMm dst) b) (legacyLen e src) := by
  obtain ⟨hstep, hcls, hdst, hlen⟩ := exec_mmxInstr hi s
  have hexec := hstep.trans ((stepMmx_next_iff ..).2 ⟨huse, b, hsrc, rfl⟩)
  refine ⟨_, hexec, ?_⟩
  have hdone := (exec_completedBy hexec).mmxDone hcls hdst
  rwa [hlen, readMm_advance, readMm_mmxSideEffects, State.readMm_writeMm_self] at hdone

/-- Settles O26: a register source is read without a stop, and the interleave at each width is the concatenation of its rule. -/
theorem mmxRegisterForms : Obligations.MmxRegisterForms := by
  intro s e dst src
  rw [← ih64_8, ← ih64_16, ← ih64_32]
  have hdone {el : Elem} {i : Instr} (hi : mmxInstr e dst (.reg src) el = some i) (huse : FormUsable .mmx el s none) :=
    exec_mmxInstr_done hi huse rfl
  exact ⟨hdone rfl, hdone rfl, hdone rfl⟩

/-! ### The read of a memory operand whose checks pass -/

/-- A memory operand whose checks pass is read, and its value is its bytes in little-endian order (20_memory.md R51, R52). -/
theorem memRead_of_operandOk {s : State} {c : Cls} {o : MemOp} {len w : Nat} (hw : 8 * operandSize c ≤ w)
    (h : OperandOk s c o len) :
    ∃ v : BitVec w, OperandValue s o len (operandSize c) v ∧ memRead w s c o.seg o.asz (s.effAddr len o) = .ok v := by
  obtain ⟨hseg, hend, hbound, hbytes, hac, hdev⟩ := h
  exact ⟨_, loadLE_byte s w _ _ hw, (memRead_ok_iff ..).2
    ⟨hseg, hend, hbound, (transStop_none_iff ..).2 hbytes, hac, (operandBytes_any_device ..).2 hdev, rfl⟩⟩

/-- Settles O27: the value is what the read of the operand answers, the same for the three forms, whose lengths agree. -/
theorem mmxMemoryForms : Obligations.MmxMemoryForms := by
  rintro s e dst o _ rfl hok
  obtain ⟨v, hval, hread⟩ := memRead_of_operandOk (w := 64) le_rfl hok
  refine ⟨v, hval, ?_⟩
  rw [← ih64_8, ← ih64_16, ← ih64_32]
  have hdone {el : Elem} {i : Instr} (hi : mmxInstr e dst (.mem o) el = some i)
      (huse : FormUsable .mmx el s (some (o.seg, s.effAddr _ o))) :=
    exec_mmxInstr_done hi huse hread
  exact ⟨hdone rfl, hdone rfl, hdone rfl⟩

end Sys2Proof.Machine
end

section
/-! PROOFS. SseForms: the 128-bit interleave as the concatenations that the rules write out, the state after a form that writes a
YMM register, and from these the settling of O28 and O29. -/

namespace Sys2Proof.Machine

/-! ### The 128-bit results as interleaves -/

/-- An interleave that fills its vector is the vector whose elements are by turns those of its sources
(40_interleave_functions.md R139). -/
theorem interleaveFrom_eq_of_pairs {n w h m : Nat} (hw : 0 < w) (hn : n = w * (2 * m)) {a b v : BitVec n}
    (hv : ∀ i < m, elemOf w v (2 * i) = elemOf w a (h + i) ∧ elemOf w v (2 * i + 1) = elemOf w b (h + i)) :
    interleaveFrom w h a b m = v := by
  refine eq_of_elemOf_eq hw hn fun k hk => ?_
  obtain ⟨heven, hodd⟩ := hv (k / 2) (by omega)
  rw [elemOf_interleaveFrom hw hn.ge hk]
  rcases Nat.mod_two_eq_zero_or_one k with hk2 | hk2
  · rw [if_pos hk2, ← heven, Nat.mul_div_cancel' (Nat.dvd_of_mod_eq_zero hk2)]
  · rw [if_neg (by omega), ← hodd, show 2 * (k / 2) + 1 = k by omega]

theorem highBytes128_eq (a b : BitVec 128) : highBytes128 a b = ih128 8 a b := by
  refine (interleaveFrom_eq_of_pairs (w := 8) (m := 8) (by decide) rfl fun i hi => ?_).symm
  match i with
  | 0 | 1 | 2 | 3 | 4 | 5 | 6 | 7 =>
    simp only [highBytes128, Nat.reduceMul, elemOf_append_succ, elemOf_append_zero, elemOf_self]
    exact ⟨rfl, rfl⟩

theorem highWords128_eq (a b : BitVec 128) : highWords128 a b = ih128 16 a b := by
  refine (interleaveFrom_eq_of_pairs (w := 16) (m := 4) (by decide) rfl fun i hi => ?_).symm
  match i with
  | 0 | 1 | 2 | 3 =>
    simp only [highWords128, Nat.reduceMul, elemOf_append_succ, elemOf_append_zero, elemOf_self]
    exact ⟨rfl, rfl⟩

theorem highDwords128_eq (a b : BitVec 128) : highDwords128 a b = ih128 32 a b := by
  refine (interleaveFrom_eq_of_pairs (w := 32) (m := 2) (by decide) rfl fun i hi => ?_).symm
  match i with
  | 0 | 1 =>
    simp only [highDwords128, Nat.reduceMul, elemOf_append_succ, elemOf_append_zero, elemOf_self]
    exact ⟨rfl, rfl⟩

theorem highQwords128_eq (a b : BitVec 128) : highQwords128 a b = ih128 64 a b := (ih128_64 a b).symm

/-! ### The state after a form that writes a YMM register -/

theorem CompletedBy.sameMmx {i : Instr} {s t : State} (h : CompletedBy i s t) (hc : i.cls ≠ .mmx) : SameMmx s t := by
  cases h with
  | mmx d v hcls _ _ => exact absurd hcls hc
  | ymm => exact ⟨rfl, rfl, rfl, rfl⟩

/-- What a 128- or 256-bit form leaves, but for the value of its result (10_state.md R24, R34). -/
theorem CompletedBy.ymmDone {i : Instr} {s t : State} {d : VecReg} (h : CompletedBy i s t) (hc : i.cls ≠ .mmx)
    (hd : ymmDst i = some d) : YmmDone s t d (t.readYmm d) i.len := by
  have hne : ∀ r : VecReg, r ≠ d → ymmDst i ≠ some r := fun r hr e => hr (Option.some.inj (e.symm.trans hd))
  exact ⟨rfl, fun r hr => h.readYmm_of_ne (hne r hr), h.sameMmx hc, h.sameControl,
    fun a => congrArg (memGet · a) h.mem_eq, h.advanced⟩

theorem State.readYmm_writeXmmLegacy_self (s : State) (i : VecReg) (v : BitVec 128) :
    (s.writeXmmLegacy i v).readYmm i = laneHigh (s.readYmm i) ++ v := s.readYmm_writeYmm_self i _

/-! ### Executing a legacy SSE form -/

theorem exec_sseInstr (e : LegacyEnc) (dst : VecReg) (src : RM 4) (el : Elem) (s : State) :
    exec (sseInstr e dst src el) s = stepSse el e dst src s := by
  cases el <;> rfl

theorem cls_sseInstr (e : LegacyEnc) (dst : VecReg) (src : RM 4) (el : Elem) : (sseInstr e dst src el).cls = .sse := by
  cases el <;> rfl

theorem ymmDst_sseInstr (e : LegacyEnc) (dst : VecReg) (src : RM 4) (el : Elem) :
    ymmDst (sseInstr e dst src el) = some dst := by
  cases el <;> rfl

theorem len_sseInstr (e : LegacyEnc) (dst : VecReg) (src : RM 4) (el : Elem) :
    (sseInstr e dst src el).len = legacyLen e src := by
  cases el <;> rfl

/-- A usable legacy SSE form whose source can be read completes (60_exceptions.md R211, 42_legacy_sse_128bit.md R164). -/
theorem exec_sseInstr_done {e : LegacyEnc} {dst : VecReg} {src : RM 4} {el : Elem} {s : State} {b : BitVec 128}
    (hsrc : s.srcXmmLegacy (legacyLen e src) src = .ok b)
    (huse : FormUsable .sse el s (s.operandOf (legacyLen e src) src)) :
    ∃ t, exec (sseInstr e dst src el) s = .next t ∧
      YmmDone s t dst (laneHigh (s.readYmm dst) ++ ih128 el.width (s.readXmm dst) b) (legacyLen e src) := by
  have hexec := (exec_sseInstr e dst src el s).trans ((stepSse_next_iff ..).2 ⟨huse, b, hsrc, rfl⟩)
  refine ⟨_, hexec, ?_⟩
  have hcls : (sseInstr e dst src el).cls ≠ .mmx := by simp [cls_sseInstr]
  have hdone := (exec_completedBy hexec).ymmDone hcls (ymmDst_sseInstr e dst src el)
  rwa [len_sseInstr, readYmm_advance, State.readYmm_writeXmmLegacy_self] at hdone

/-- Settles O28: a register source is read without a stop, and the concatenation of each rule is the interleave at its width. -/
theorem sseRegisterForms : Obligations.SseRegisterForms := by
  intro s e dst src
  rw [highBytes128_eq, highWords128_eq, highDwords128_eq, highQwords128_eq]
  have hdone (el : Elem) := exec_sseInstr_done (e := e) (dst := dst) (src := .reg src) (el := el) (s := s) rfl
  exact ⟨hdone .byte, hdone .word, hdone .dword, hdone .qword⟩

/-- Settles O29: the value is what the read of the operand answers, the same for the four forms, whose lengths agree. -/
theorem sseMemoryForms : Obligations.SseMemoryForms := by
  rintro s e dst o _ rfl hok
  obtain ⟨v, hval, hread⟩ := memRead_of_operandOk (w := 128) le_rfl hok
  refine ⟨v, hval, ?_⟩
  rw [highBytes128_eq, highWords128_eq, highDwords128_eq, highQwords128_eq]
  have hdone (el : Elem) := exec_sseInstr_done (e := e) (dst := dst) (src := .mem o) (el := el) hread
  exact ⟨hdone .byte, hdone .word, hdone .dword, hdone .qword⟩

end Sys2Proof.Machine
end

section
/-! PROOFS. Vex128Forms: what a VEX form writes, the state after a VEX.128 form, and from these the settling of O30 and O31. -/

namespace Sys2Proof.Machine

theorem cls_vexInstr (e : VexEnc) (dst src1 : VecReg) (src2 : RM 4) (l : Bool) (el : Elem) :
    (vexInstr e dst src1 src2 l el).cls = bif l then .vex256 else .vex128 := by
  cases l <;> cases el <;> rfl

theorem cls_vexInstr_ne_mmx (e : VexEnc) (dst src1 : VecReg) (src2 : RM 4) (l : Bool) (el : Elem) :
    (vexInstr e dst src1 src2 l el).cls ≠ .mmx := by
  rw [cls_vexInstr]
  cases l <;> nofun

theorem ymmDst_vexInstr (e : VexEnc) (dst src1 : VecReg) (src2 : RM 4) (l : Bool) (el : Elem) :
    ymmDst (vexInstr e dst src1 src2 l el) = some dst := by
  cases l <;> cases el <;> rfl

theorem State.readYmm_writeXmmVex_self (s : State) (i : VecReg) (v : BitVec 128) :
    (s.writeXmmVex i v).readYmm i = 0#128 ++ v := s.readYmm_writeYmm_self i _

/-- A usable VEX.128 form whose last source can be read completes (60_exceptions.md R211, 43_vex128.md R174). -/
theorem exec_vex128Instr_done {e : VexEnc} {dst src1 : VecReg} {src2 : RM 4} {el : Elem} {s : State} {b : BitVec 128}
    (hsrc : s.srcXmmVex (vexLen e src2) src2 = .ok b)
    (huse : FormUsable .vex128 el s (s.operandOf (vexLen e src2) src2)) :
    ∃ t, exec (vexInstr e dst src1 src2 false el) s = .next t ∧
      YmmDone s t dst (0#128 ++ ih128 el.width (s.readXmm src1) b) (vexLen e src2) := by
  have hexec := (exec_vexInstr_128 e dst src1 src2 el s).trans ((stepVex128_next_iff ..).2 ⟨huse, b, hsrc, rfl⟩)
  refine ⟨_, hexec, ?_⟩
  have hdone := (exec_completedBy hexec).ymmDone (cls_vexInstr_ne_mmx e dst src1 src2 false el)
    (ymmDst_vexInstr e dst src1 src2 false el)
  rwa [len_vexInstr, readYmm_advance, State.readYmm_writeXmmVex_self] at hdone

/-- Settles O30: a register source is read without a stop, and the write of the interleave clears the bits above it. -/
theorem vex128RegisterForms : Obligations.Vex128RegisterForms := by
  intro s e dst src1 src2
  rw [highBytes128_eq, highWords128_eq, highDwords128_eq, highQwords128_eq]
  have hdone (el : Elem) :=
    exec_vex128Instr_done (e := e) (dst := dst) (src1 := src1) (src2 := .reg src2) (el := el) (s := s) rfl
  exact ⟨hdone .byte, hdone .word, hdone .dword, hdone .qword⟩

/-- Settles O31: one read of the operand serves the four forms, since the length they are read with is the same. -/
theorem vex128MemoryForms : Obligations.Vex128MemoryForms := by
  rintro s e dst src1 o _ rfl hok
  obtain ⟨v, hval, hread⟩ := memRead_of_operandOk (w := 128) le_rfl hok
  refine ⟨v, hval, ?_⟩
  rw [highBytes128_eq, highWords128_eq, highDwords128_eq, highQwords128_eq]
  have hdone (el : Elem) :=
    exec_vex128Instr_done (e := e) (dst := dst) (src1 := src1) (src2 := .mem o) (el := el) hread
  exact ⟨hdone .byte, hdone .word, hdone .dword, hdone .qword⟩

end Sys2Proof.Machine
end

section
/-! PROOFS. Vex256Forms: the 128-bit results on each lane as the 256-bit interleave, the state after a VEX.256 form, and from these
the settling of O32 and O33. -/

namespace Sys2Proof.Machine

/-- What is IH128 on a lane is IH256 on both (40_interleave_functions.md R139). -/
theorem onLanes_eq_ih256 {w : Nat} {f : BitVec 128 → BitVec 128 → BitVec 128} (hf : ∀ d v, f d v = ih128 w d v)
    (d v : BitVec 256) : onLanes f d v = ih256 w d v := by
  rw [onLanes, ih256, hf, hf]

/-- A usable VEX.256 form whose last source can be read completes, with the 128-bit result of its element on each lane
(60_exceptions.md R211, 44_vex256.md R184). -/
theorem exec_vex256Instr_done {e : VexEnc} {dst src1 : VecReg} {src2 : RM 4} {s : State} {b : BitVec 256}
    (hsrc : s.srcYmm (vexLen e src2) src2 = .ok b) (el : Elem) {f : BitVec 128 → BitVec 128 → BitVec 128}
    (hf : ∀ d v, f d v = ih128 el.width d v) (huse : FormUsable .vex256 el s (s.operandOf (vexLen e src2) src2)) :
    ∃ t, exec (vexInstr e dst src1 src2 true el) s = .next t ∧
      YmmDone s t dst (onLanes f (s.readYmm src1) b) (vexLen e src2) := by
  have hexec := (exec_vexInstr_256 e dst src1 src2 el s).trans ((stepVex256_next_iff ..).2 ⟨huse, b, hsrc, rfl⟩)
  refine ⟨_, hexec, ?_⟩
  rw [onLanes_eq_ih256 hf]
  have hdone := (exec_completedBy hexec).ymmDone (cls_vexInstr_ne_mmx e dst src1 src2 true el)
    (ymmDst_vexInstr e dst src1 src2 true el)
  rwa [len_vexInstr, readYmm_advance, State.readYmm_writeYmm_self] at hdone

/-- Settles O32: a register source is read without a stop, and the result of each rule is the interleave at its width on each
lane. -/
theorem vex256RegisterForms : Obligations.Vex256RegisterForms := by
  intro s e dst src1 src2
  have hsrc : s.srcYmm (vexLen e (.reg src2)) (.reg src2) = .ok (s.readYmm src2) := rfl
  exact ⟨exec_vex256Instr_done hsrc .byte highBytes128_eq, exec_vex256Instr_done hsrc .word highWords128_eq,
    exec_vex256Instr_done hsrc .dword highDwords128_eq, exec_vex256Instr_done hsrc .qword highQwords128_eq⟩

/-- Settles O33: the 32 bytes are read once for the four forms, since the length they are read with is the same. -/
theorem vex256MemoryForms : Obligations.Vex256MemoryForms := by
  rintro s e dst src1 o _ rfl hok
  obtain ⟨v, hval, hread⟩ := memRead_of_operandOk (w := 256) le_rfl hok
  have hsrc : s.srcYmm (vexLen e (.mem o)) (.mem o) = .ok v := hread
  exact ⟨v, hval, exec_vex256Instr_done hsrc .byte highBytes128_eq, exec_vex256Instr_done hsrc .word highWords128_eq,
    exec_vex256Instr_done hsrc .dword highDwords128_eq, exec_vex256Instr_done hsrc .qword highQwords128_eq⟩

end Sys2Proof.Machine
end

section
/-! PROOFS. Exceptions: what the checks before a form and the read of its operand raise, and from these the settling of O34, O35,
O39, O40 and O41. -/

namespace Sys2Proof.Machine

/-! ### Vectors and error codes -/

/-- #SS and #GP, and no other exception, lose their error code in real-address mode (60_exceptions.md R205). -/
theorem errorCode_raised {x : Exc} {s : State} (h : s.opMode ≠ .real ∨ (x ≠ .gp ∧ x ≠ .ss)) :
    (Fault.raised x s).errorCode = x.errorCode := by
  refine if_neg ?_
  rintro ⟨hreal, hx⟩
  rcases h with h | ⟨hgp, hss⟩
  · exact h hreal
  · exact hx.elim hgp hss

theorem errorCode_raised_real {x : Exc} {s : State} (hs : s.opMode = .real) (hx : x = .gp ∨ x = .ss) :
    (Fault.raised x s).errorCode = none := if_pos ⟨hs, hx⟩

/-- Settles O40: the vectors by evaluation, the error codes from the modes in which the codes of `Exc.errorCode` stand. -/
theorem exceptionCodes : Obligations.ExceptionCodes := by
  refine ⟨⟨rfl, rfl, rfl, rfl, rfl, rfl, fun _ _ => rfl⟩, fun s => ?_⟩
  have other {x : Exc} (hgp : x ≠ .gp) (hss : x ≠ .ss) := errorCode_raised (s := s) (.inr ⟨hgp, hss⟩)
  exact ⟨other nofun nofun, other nofun nofun, other nofun nofun, other nofun nofun, fun _ _ => other nofun nofun,
    fun hs => ⟨errorCode_raised (.inl hs), errorCode_raised (.inl hs)⟩,
    fun hs => ⟨errorCode_raised_real hs (.inr rfl), errorCode_raised_real hs (.inl rfl)⟩⟩

/-! ### The state that a fault carries -/

theorem decodeOutcome_fault_state {s : State} {d : DecodeStop} {f : Fault} (h : s.decodeOutcome d = .fault f) :
    f.state = s := by
  cases d with
  | invalidOpcode | tooLong =>
    cases h
    rfl
  | truncated | repeatedPrefix | notOnPage | needs66 | vexBOutside64 => cases h

theorem step_fault_state {s : State} {f : Fault} (h : step s = .fault f) : f.state = s := by
  unfold step at h
  split at h
  · exact exec_fault_state h
  · exact decodeOutcome_fault_state h

/-- Settles O41: the state that the fault carries is the state before the step, and so is any change of it. -/
theorem faultsArePrecise : Obligations.FaultsArePrecise := by
  intro s f h
  have hstate := step_fault_state h
  exact ⟨hstate, fun repair => by rw [hstate]⟩

/-! ### The rows of `Usable`, those that raise #UD put together (60_exceptions.md R208) -/

theorem usableTable_mmx (s : State) : usableTable .mmx s =
    if s.features.mmx = false ∨ s.em = true then .error (.exc .ud)
    else if s.ts = true then .error (.exc .nm)
    else if s.x87Es = true then .error (.exc .mf)
    else .ok () := by
  rw [ite_or]
  rfl

theorem usableTable_sse (s : State) : usableTable .sse s =
    if s.features.sse2 = false ∨ s.em = true ∨ s.osfxsr = false then .error (.exc .ud)
    else if s.ts = true then .error (.exc .nm)
    else .ok () := by
  rw [ite_or]
  rfl

theorem usableTable_vex128 (s : State) : usableTable .vex128 s =
    if s.vexModeOk = false ∨ s.features.avx = false ∨ s.osxsave = false ∨ s.avxState = false then .error (.exc .ud)
    else if s.ts = true then .error (.exc .nm)
    else .ok () := by
  rw [ite_or, ite_or]
  rfl

theorem usableTable_vex256 (s : State) : usableTable .vex256 s =
    if s.vexModeOk = false ∨ s.features.avx2 = false ∨ s.osxsave = false ∨ s.avxState = false then .error (.exc .ud)
    else if s.ts = true then .error (.exc .nm)
    else .ok () := by
  rw [ite_or, ite_or]
  rfl

theorem exec_of_table_exc {i : Instr} {s : State} {x : Exc} (hs : s.replaced = none)
    (h : usableTable i.cls s = .error (.exc x)) : exec i s = .fault (.raised x s) :=
  exec_of_check_exc ((usable_default _ _ _ _ hs).trans h)

/-! ### A form that is not there -/

theorem usableTable_absent {c : Cls} {s : State} (h : s.formThere c = false) : usableTable c s = .error (.exc .ud) := by
  cases c with
  | mmx => exact (usableTable_mmx s).trans (if_pos (.inl h))
  | sse => exact (usableTable_sse s).trans (if_pos (.inl h))
  | vex128 =>
    rcases Bool.and_eq_false_iff.1 h with hmode | havx
    · exact (usableTable_vex128 s).trans (if_pos (.inl hmode))
    · exact (usableTable_vex128 s).trans (if_pos (.inr (.inl havx)))
  | vex256 =>
    rcases Bool.and_eq_false_iff.1 h with hmode | havx2
    · exact (usableTable_vex256 s).trans (if_pos (.inl hmode))
    · exact (usableTable_vex256 s).trans (if_pos (.inr (.inl havx2)))

/-- A form that is no instruction here raises #UD, whichever function stands for Type4Check (60_exceptions.md R204, R206). -/
theorem exec_absent {i : Instr} {s : State} (h : s.formThere i.cls = false) : exec i s = .fault (.raised .ud s) := by
  cases hr : s.replaced with
  | none => exact exec_of_table_exc hr (usableTable_absent h)
  | some k => exact exec_of_check_exc (usable_replaced_absent hr h)

/-- Settles O34: without its flag a form is not there. -/
theorem featureAbsentInvalid : Obligations.FeatureAbsentInvalid := by
  intro s i
  refine ⟨fun hc hflag => exec_absent ?_, fun hc hflag => exec_absent ?_, fun hc hflag => exec_absent ?_,
    fun hc hflag => exec_absent ?_⟩
  · rw [hc]
    exact hflag
  · rw [hc]
    exact hflag
  · rw [hc, State.formThere, hflag, Bool.and_false]
  · rw [hc, State.formThere, hflag, Bool.and_false]

/-! ### What the operand and the form raise -/

/-- There is no page fault in real-address mode (60_exceptions.md R205, R207). -/
theorem transStop_exc_opMode {s : State} {g : Seg} {addr : BitVec 64} {n : Nat} {x : Exc}
    (h : s.transStop g addr n = some (.exc x)) : s.opMode ≠ .real := by
  obtain ⟨a, -, ha⟩ := List.exists_of_findSome?_eq_some h
  rcases byteStop_some s a _ ha with ⟨-, -, he⟩ | ⟨hmode, -, -⟩ | ⟨hmode, -, -, -⟩
  · cases he
  · exact hmode
  · exact hmode

theorem segFault_cases (s : State) (c : Cls) (g : Seg) : (g = .ss ∧ s.segFault c g = .ss) ∨ s.segFault c g = .gp := by
  unfold State.segFault
  split
  · next h =>
    obtain ⟨hseg, -, -⟩ := h
    exact .inl ⟨hseg, rfl⟩
  · exact .inr rfl

/-- Every exception that a memory operand of class `c` through segment `g` can raise, with what its kind says of the state
(60_exceptions.md R201, R205, R207). -/
inductive OperandExc (s : State) (c : Cls) (g : Seg) : Exc → Prop
  | ss (hseg : g = .ss) : OperandExc s c g .ss
  | gp : OperandExc s c g .gp
  | pf (code : BitVec 32) (a : BitVec 64) (hmode : s.opMode ≠ .real) : OperandExc s c g (.pf code a)
  | ac (hcls : c = .mmx) (hac : s.acEnabled = true) : OperandExc s c g .ac

theorem memRead_operandExc {w : Nat} {s : State} {c : Cls} {g : Seg} {asz : AddrSize} {addr : BitVec 64} {x : Exc}
    (h : memRead w s c g asz addr = .error (.exc x)) : OperandExc s c g x := by
  rcases memRead_error h with ⟨-, he⟩ | ⟨-, -, he⟩ | ⟨-, -, -, he⟩ | ⟨-, -, -, ht⟩ | ⟨-, hfails, he⟩ | ⟨-, -, he⟩
  · cases he
    rcases segFault_cases s c g with ⟨hseg, hx⟩ | hx
    · exact hx ▸ .ss hseg
    · exact hx ▸ .gp
  · cases he
  · cases he
    exact .gp
  · obtain ⟨code, a, rfl⟩ := transStop_exc ht
    exact .pf code a (transStop_exc_opMode ht)
  · cases he
    obtain ⟨hcls, -, hac, -⟩ := hfails
    exact .ac hcls hac
  · cases he

theorem exc_of_finish_raised {s t : State} {e : Stop} {x : Exc} (h : s.finish (.error e) = .fault (.raised x t)) :
    e = .exc x := by
  rcases (finish_fault_iff s _ _).1 h with ⟨y, hy, hf⟩ | ⟨a, -, hf⟩
  · cases hy
    cases hf
    rfl
  · cases hf

/-- An exception comes from the checks before the form or from its memory operand (60_exceptions.md R211). -/
theorem exec_raised_cases {i : Instr} {s t : State} {x : Exc} (h : exec i s = .fault (.raised x t)) :
    usable i.cls i.elem s (operandAt i s) = .error (.exc x) ∨
      ∃ o, i.mem? = some o ∧ OperandExc s i.cls o.seg x := by
  rcases exec_cases i s with ⟨-, -, u, hu⟩ | ⟨e, he, hexec⟩ | ⟨-, e, he, hexec⟩
  · exact nomatch hu.symm.trans h
  · exact .inl (exc_of_finish_raised (hexec.symm.trans h) ▸ he)
  · obtain ⟨o, ho, hread⟩ := operandRead_error he
    rw [exc_of_finish_raised (hexec.symm.trans h)] at hread
    exact .inr ⟨o, ho, memRead_operandExc hread⟩

/-- Past its checks a form raises none of the exceptions that are theirs. -/
theorem exc?_of_formUsable {i : Instr} {s : State} {f : Fault} (huse : FormUsable i.cls i.elem s (operandAt i s))
    (h : exec i s = .fault f) : f.exc? ≠ some .ud ∧ f.exc? ≠ some .nm ∧ f.exc? ≠ some .mf := by
  cases f with
  | noMemory a t => exact ⟨nofun, nofun, nofun⟩
  | raised x t =>
    rcases exec_raised_cases h with hcheck | ⟨o, -, hx⟩
    · exact nomatch ((usable_ok_iff ..).2 huse).symm.trans hcheck
    · cases hx <;> exact ⟨nofun, nofun, nofun⟩

/-- Settles O35: the rows of `Usable` of each class in turn, and past them only the memory operand raises. -/
theorem usableOrder : Obligations.UsableOrder := by
  intro s i
  refine ⟨fun hr => ⟨fun hc => ?_, fun hc => ?_, fun hc => ?_, fun hc => ?_⟩, fun huse f h => exc?_of_formUsable huse h⟩
  all_goals have hexec {x : Exc} := exec_of_table_exc (i := i) (x := x) hr
  · rw [hc, usableTable_mmx] at hexec
    refine ⟨fun hud => hexec (if_pos hud), fun hmmx hem hts => hexec ?_, fun hmmx hem hts hes => hexec ?_⟩
    · simp [hmmx, hem, hts]
    · simp [hmmx, hem, hts, hes]
  · rw [hc, usableTable_sse] at hexec
    refine ⟨fun hud => hexec (if_pos hud), fun hsse2 hem hosfxsr hts => hexec ?_⟩
    simp [hsse2, hem, hosfxsr, hts]
  · rw [hc, usableTable_vex128] at hexec
    refine ⟨fun hud => hexec (if_pos hud), fun hmode havx hosxsave hstate hts => hexec ?_⟩
    simp [hmode, havx, hosxsave, hstate, hts]
  · rw [hc, usableTable_vex256] at hexec
    refine ⟨fun hud => hexec (if_pos hud), fun hmode havx2 hosxsave hstate hts => hexec ?_⟩
    simp [hmode, havx2, hosxsave, hstate, hts]

theorem acEnabled_iff (s : State) :
    s.acEnabled = true ↔ s.am = true ∧ s.acFlag = true ∧ s.cpl = 3#2 ∧ s.opMode ≠ .real := by
  simp [State.acEnabled, and_assoc]

/-- Settles O39: by the default checks only #UD, #NM and the #MF of the MMX forms are raised before the operand, and the operand
raises the rest. -/
theorem exceptionCatalogue : Obligations.ExceptionCatalogue := by
  intro s t i x hr h
  rcases exec_raised_cases h with hcheck | ⟨o, ho, hx⟩
  · rw [usable_default _ _ _ _ hr] at hcheck
    rcases usableTable_error _ _ _ hcheck with he | he | ⟨hcls, he⟩
    · cases he
      exact ⟨nofun, nofun, nofun, nofun, nofun⟩
    · cases he
      exact ⟨nofun, nofun, nofun, nofun, nofun⟩
    · cases he
      exact ⟨fun _ => hcls, nofun, nofun, nofun, nofun⟩
  · have hmem : i.mem? ≠ none := by simp [ho]
    cases hx with
    | ss hseg => exact ⟨nofun, nofun, fun _ => ⟨o, ho, hseg⟩, nofun, nofun⟩
    | gp => exact ⟨nofun, nofun, nofun, fun _ => hmem, nofun⟩
    | pf code a hmode => exact ⟨nofun, nofun, nofun, nofun, fun _ _ _ => ⟨hmem, hmode⟩⟩
    | ac hcls hac => exact ⟨nofun, fun _ => ⟨hcls, hmem, (acEnabled_iff s).1 hac⟩, nofun, nofun, nofun⟩

end Sys2Proof.Machine
end

section
/-! PROOFS. Noninterference: an update of the state that a form neither reads nor writes passes through its outcome, and from this
the settling of O44 and O45. -/

namespace Sys2Proof.Machine

/-! ### The shape of a form -/

/-- The outcome of a form with the checks `check` and the last source `src` that leaves `done b` where the source is `b`
(60_exceptions.md R211). -/
def formOutcome {α : Type} (s : State) (check : Except Stop Unit) (src : Except Stop α) (done : α → State) : Result :=
  s.finish (check.bind fun _ => src.map done)

theorem stepMmx_eq (el : Elem) (e : LegacyEnc) (dst : MmReg) (src : RM 3) (s : State) :
    stepMmx el e dst src s =
      formOutcome s (usable .mmx el s (s.operandOf (legacyLen e src) src)) (s.srcMm (legacyLen e src) src) fun b =>
        ((s.writeMm dst (ih64 el.width (s.readMm dst) b)).mmxSideEffects dst).advance (legacyLen e src) := by
  unfold stepMmx
  cases usable .mmx el s (s.operandOf (legacyLen e src) src) with
  | error x => rfl
  | ok u => cases s.srcMm (legacyLen e src) src <;> rfl

theorem stepSse_eq (el : Elem) (e : LegacyEnc) (dst : VecReg) (src : RM 4) (s : State) :
    stepSse el e dst src s =
      formOutcome s (usable .sse el s (s.operandOf (legacyLen e src) src)) (s.srcXmmLegacy (legacyLen e src) src) fun b =>
        (s.writeXmmLegacy dst (ih128 el.width (s.readXmm dst) b)).advance (legacyLen e src) := by
  unfold stepSse
  cases usable .sse el s (s.operandOf (legacyLen e src) src) with
  | error x => rfl
  | ok u => cases s.srcXmmLegacy (legacyLen e src) src <;> rfl

theorem stepVex128_eq (el : Elem) (e : VexEnc) (dst src1 : VecReg) (src2 : RM 4) (s : State) :
    stepVex128 el e dst src1 src2 s =
      formOutcome s (usable .vex128 el s (s.operandOf (vexLen e src2) src2)) (s.srcXmmVex (vexLen e src2) src2) fun b =>
        (s.writeXmmVex dst (ih128 el.width (s.readXmm src1) b)).advance (vexLen e src2) := by
  unfold stepVex128
  cases usable .vex128 el s (s.operandOf (vexLen e src2) src2) with
  | error x => rfl
  | ok u => cases s.srcXmmVex (vexLen e src2) src2 <;> rfl

theorem stepVex256_eq (el : Elem) (e : VexEnc) (dst src1 : VecReg) (src2 : RM 4) (s : State) :
    stepVex256 el e dst src1 src2 s =
      formOutcome s (usable .vex256 el s (s.operandOf (vexLen e src2) src2)) (s.srcYmm (vexLen e src2) src2) fun b =>
        (s.writeYmm dst (ih256 el.width (s.readYmm src1) b)).advance (vexLen e src2) := by
  unfold stepVex256
  cases usable .vex256 el s (s.operandOf (vexLen e src2) src2) with
  | error x => rfl
  | ok u => cases s.srcYmm (vexLen e src2) src2 <;> rfl

/-- An update that changes neither the checks nor the source, and commutes with what the form writes, passes through the outcome. -/
theorem formOutcome_map {α : Type} {f : State → State} {s : State} {r r' : Result} {check check' : Except Stop Unit}
    {src src' : Except Stop α} {done done' : α → State} (hr' : r' = formOutcome (f s) check' src' done')
    (hr : r = formOutcome s check src done) (hcheck : check' = check) (hsrc : src' = src) (hdone : ∀ b, done' b = f (done b)) :
    r' = mapOutcome f r := by
  subst hr hr' hcheck hsrc
  have hstop (e : Stop) : (f s).finish (.error e) = mapOutcome f (s.finish (.error e)) := by cases e <;> rfl
  cases check' with
  | error e => exact hstop e
  | ok u =>
    cases src' with
    | error e => exact hstop e
    | ok b => exact congrArg Host.Outcome.next (hdone b)

/-- By the default Type4Check the checks are a matter of `Usable` alone, whatever the operand (log 4). -/
theorem usable_eq_of_table_eq {c : Cls} {el : Elem} {s t : State} {op op' : Option (Seg × BitVec 64)} (hs : s.replaced = none)
    (ht : t.replaced = none) (h : usableTable c t = usableTable c s) : usable c el t op' = usable c el s op := by
  rw [usable_default _ _ _ _ hs, usable_default _ _ _ _ ht, h]

/-! ### The privilege level -/

/-- The state at another privilege level. -/
def State.withCpl (l : BitVec 2) (s : State) : State := { s with cpl := l }

/-- No check of R208 reads the privilege level. -/
theorem usable_withCpl {c : Cls} {el : Elem} {s : State} {op op' : Option (Seg × BitVec 64)} (hs : s.replaced = none)
    (l : BitVec 2) : usable c el (s.withCpl l) op' = usable c el s op :=
  usable_eq_of_table_eq hs hs rfl

/-- Settles O44: the checks and a source register are the same at every privilege level. -/
theorem privilegeIrrelevant : Obligations.PrivilegeIrrelevant := by
  intro i s l hmem hs
  change exec i (s.withCpl l) = mapOutcome (State.withCpl l) (exec i s)
  cases i with
  | punpckhbwMm e d r | punpckhwdMm e d r | punpckhdqMm e d r =>
    cases r with
    | reg r => exact formOutcome_map (stepMmx_eq ..) (stepMmx_eq ..) (usable_withCpl hs l) rfl fun _ => rfl
    | mem o => cases hmem
  | punpckhbwXmm e d r | punpckhwdXmm e d r | punpckhdqXmm e d r | punpckhqdqXmm e d r =>
    cases r with
    | reg r => exact formOutcome_map (stepSse_eq ..) (stepSse_eq ..) (usable_withCpl hs l) rfl fun _ => rfl
    | mem o => cases hmem
  | vpunpckhbwXmm e d a r | vpunpckhwdXmm e d a r | vpunpckhdqXmm e d a r | vpunpckhqdqXmm e d a r =>
    cases r with
    | reg r => exact formOutcome_map (stepVex128_eq ..) (stepVex128_eq ..) (usable_withCpl hs l) rfl fun _ => rfl
    | mem o => cases hmem
  | vpunpckhbwYmm e d a r | vpunpckhwdYmm e d a r | vpunpckhdqYmm e d a r | vpunpckhqdqYmm e d a r =>
    cases r with
    | reg r => exact formOutcome_map (stepVex256_eq ..) (stepVex256_eq ..) (usable_withCpl hs l) rfl fun _ => rfl
    | mem o => cases hmem

/-! ### CR4 and XCR0 -/

/-- The state with another CR4 and XCR0. -/
def State.withOsEnables (a b : BitVec 64) (s : State) : State := { s with cr4 := a, xcr0 := b }

/-- The MMX rows of R208 read neither CR4 nor XCR0 (60_exceptions.md R207). -/
theorem usable_mmx_withOsEnables {el : Elem} {s : State} {op op' : Option (Seg × BitVec 64)} (hs : s.replaced = none)
    (a b : BitVec 64) : usable .mmx el (s.withOsEnables a b) op' = usable .mmx el s op :=
  usable_eq_of_table_eq hs hs rfl

theorem loadLE_congr {s t : State} (h : t.mem = s.mem) (w : Nat) (f : Nat → Nat) (n : Nat) :
    t.loadLE w f n = s.loadLE w f n := by
  induction n with
  | zero => rfl
  | succ n ih => rw [State.loadLE, State.loadLE, ih, State.byteAt, State.byteAt, h]

/-- No check of a memory operand, and no byte of it, depends on CR4 or XCR0 (20_memory.md R52). -/
theorem memRead_withOsEnables (w : Nat) (s : State) (c : Cls) (g : Seg) (asz : AddrSize) (addr a b : BitVec 64) :
    memRead w (s.withOsEnables a b) c g asz addr = memRead w s c g asz addr := by
  have hmem : (s.withOsEnables a b).mem = s.mem := rfl
  rw [memRead, loadLE_congr hmem]
  rfl

theorem srcMm_withOsEnables (s : State) (len : Nat) (src : RM 3) (a b : BitVec 64) :
    (s.withOsEnables a b).srcMm len src = s.srcMm len src := by
  cases src with
  | reg r => rfl
  | mem o => exact memRead_withOsEnables 64 s .mmx o.seg o.asz (s.effAddr len o) a b

theorem stepMmx_withOsEnables {s : State} (hs : s.replaced = none) (el : Elem) (e : LegacyEnc) (dst : MmReg) (src : RM 3)
    (a b : BitVec 64) :
    stepMmx el e dst src (s.withOsEnables a b) = mapOutcome (State.withOsEnables a b) (stepMmx el e dst src s) :=
  formOutcome_map (stepMmx_eq ..) (stepMmx_eq ..) (usable_mmx_withOsEnables hs a b) (srcMm_withOsEnables s _ src a b) fun _ => rfl

/-- Settles O45: the checks of an MMX form and its source, a memory operand among them, are the same with any CR4 and XCR0. -/
theorem mmxIgnoresOsEnables : Obligations.MmxIgnoresOsEnables := by
  intro i s a b hcls hs
  change exec i (s.withOsEnables a b) = mapOutcome (State.withOsEnables a b) (exec i s)
  cases i with
  | punpckhbwMm e d r | punpckhwdMm e d r | punpckhdqMm e d r => exact stepMmx_withOsEnables hs _ e d r a b
  | punpckhbwXmm | punpckhwdXmm | punpckhdqXmm | punpckhqdqXmm | vpunpckhbwXmm | vpunpckhwdXmm | vpunpckhdqXmm
  | vpunpckhqdqXmm | vpunpckhbwYmm | vpunpckhwdYmm | vpunpckhdqYmm | vpunpckhqdqYmm => cases hcls

end Sys2Proof.Machine
end

section
/-! PROOFS. ResetUsability: what `Usable` answers after reset, row by row, and from this the settling of O5. -/

namespace Sys2Proof.Machine

/-- At reset the parameter Type4Check has its default, so that the rows of R208 are the checks before a form (log 4). -/
theorem replaced_reset : State.reset.replaced = none := rfl

/-- Real-address mode, the mode after reset, has no VEX forms (60_exceptions.md R206). -/
theorem vexModeOk_reset : State.reset.vexModeOk = false := rfl

/-- CR0 at reset has EM = 0 and TS = 0, and no x87 exception is pending (70_reset_and_hazards.md R241). -/
theorem mmxUsable_reset : MmxUsable State.reset := ⟨rfl, rfl, rfl, rfl⟩

/-- CR4 at reset has OSFXSR = 0, which stops the legacy SSE forms, and the mode stops the VEX forms (70_reset_and_hazards.md
R241). -/
theorem usableTable_reset_of_ne_mmx {c : Cls} (hc : c ≠ .mmx) : usableTable c State.reset = .error (.exc .ud) := by
  cases c with
  | mmx => exact absurd rfl hc
  | sse =>
    have hosfxsr : State.reset.osfxsr = false := rfl
    exact (usableTable_sse _).trans (if_pos (.inr (.inr hosfxsr)))
  | vex128 => exact (usableTable_vex128 _).trans (if_pos (.inl vexModeOk_reset))
  | vex256 => exact (usableTable_vex256 _).trans (if_pos (.inl vexModeOk_reset))

/-- Settles O5: past its checks an MMX form without a memory operand has nothing left to stop it, and the checks of every other
class raise #UD. -/
theorem resetUsability : Obligations.ResetUsability := by
  refine ⟨fun i hc hm => exec_completes_of_mem?_none ?_ hm, fun i hc =>
    exec_of_table_exc replaced_reset (usableTable_reset_of_ne_mmx hc)⟩
  rw [usable_default _ _ _ _ replaced_reset, usableTable_ok_iff, hc]
  exact mmxUsable_reset

end Sys2Proof.Machine
end

section
/-! PROOFS. UnlistedCode: the fetch where memory lists no first instruction byte, and from this the settling of O3. -/

namespace Sys2Proof.Machine

/-- A byte that memory does not list cannot be fetched, whatever the other conditions of a fetch answer (log 7). -/
theorem fetchByte_eq_none_of_byteAt {s : State} {k : Nat} (h : s.byteAt (s.linear .cs s.rip k) = none) :
    s.fetchByte k = none := by
  rw [State.fetchByte, h, ite_self]

/-- The fetch ends at the first byte that it cannot read. -/
theorem fetchFrom_eq_nil {s : State} {k : Nat} (h : s.fetchByte k = none) : ∀ n : Nat, s.fetchFrom k n = []
  | 0 => rfl
  | n + 1 => by rw [State.fetchFrom, h]

theorem fetchBytes_eq_nil {s : State} (h : s.byteAt (s.linear .cs s.rip 0) = none) : s.fetchBytes = [] :=
  fetchFrom_eq_nil (fetchByte_eq_none_of_byteAt h) _

/-- No byte is no prefix, so the decoder stops where the opcode should stand (30_encoding.md R80). -/
theorem decode_nil (m : CodeMode) : decode m [] = .error .truncated := rfl

/-- Settles O3: no byte is fetched, so the decoder stops at the program counter itself, and this is inside its address space. -/
theorem unlistedCodeRefused : Obligations.UnlistedCodeRefused := by
  intro s hrip hbyte
  have hnil : s.fetchBytes = [] := fetchBytes_eq_nil hbyte
  have hdec : decode s.codeMode s.fetchBytes = .error .truncated := by rw [hnil, decode_nil]
  have hinside : s.rip.toNat + s.fetchBytes.length < s.pcSpan := by rw [hnil]; exact hrip
  obtain ⟨-, -, -, -, -, hunreadable, -⟩ := stepWithoutInstruction s _ hdec
  exact hunreadable rfl hinside

end Sys2Proof.Machine
end
